-- ==== Sys2Proof/Word.lean ====
section
/-! DEFINITION. The word and byte types of the register space (rules R20, R63: every register is 32 bits, a word is shown as bytes). -/

namespace Sys2Proof

/-- A register of the block: 32 bits (rule R20). -/
abbrev Word := BitVec 32

/-- One byte of a word as a dump shows it (rule R63). -/
abbrev Byte := BitVec 8

end Sys2Proof
end

