-- ==== Sys2Proof/Syntax.lean ====
section
/-! DEFINITION. What the machine can be told to do: the 21 rows of spec/opcode_table.json as `Instr`, the raw bus transaction a
host command is decoded from, and the moves the three agents can make (rules R5, R81, R84, R91, R160 to R162). -/

namespace Sys2Proof

/-- The six frequencies a plan carries and the FrozenClocks record publishes, in the order of words 1 to 6 (rules R22, R83). -/
inductive FreqReg where
  | sysclk | ahb | apb1 | apb2 | pll | usb
  deriving DecidableEq, Repr, Inhabited

/-- The seven plan registers, words 0 to 6 (rule R21). -/
inductive PlanReg where
  | cfg
  | freq (r : FreqReg)
  deriving DecidableEq, Repr, Inhabited

/-- The registers of the register space (rules R20, R60). -/
inductive Reg where
  | cr | cfgr | acr | ctrl | status | cnt | curSysclk
  | plan (r : PlanReg)
  | fc (r : FreqReg)
  deriving DecidableEq, Repr, Inhabited

/-- Six frequency registers in hertz, 0 meaning absent (rules R11, R22, R83). -/
structure Freqs where
  sysclk : Word
  ahb : Word
  apb1 : Word
  apb2 : Word
  pll : Word
  usb : Word
  deriving DecidableEq, Repr, Inhabited

/-- Format `PLAN`: the seven words of the commit's operand. Word 0 is kept whole, reserved bits included, because the host
stores it unchecked and reads it back (rules R82, R83, R100). -/
structure Plan where
  cfg : Word
  f : Freqs
  deriving DecidableEq, Repr, Inhabited

/-- One instruction: a micro-operation of the sequencer (rule R81), a host command (rule R84), or the pseudo-instruction
`COMMIT` (rule R104). A word of the register space is named by its index `off[6:2]`. -/
inductive Instr where
  | idle
  | hseEn
  | hseWait
  | pllCfg
  | pllEn
  | pllWait
  | flashWs
  | prescPre
  | swSet
  | swWait
  | prescPost
  | emit
  | done
  | failed
  | rsvd14
  | rsvd15
  | rdreg (o : BitVec 5)
  | wrplan (r : PlanReg) (v : Word)
  | start
  | wrign (o : BitVec 5) (v : Word)
  | commit (p : Plan)
  deriving DecidableEq, Repr, Inhabited

/-- The direction of a bus transaction (rule R84). -/
inductive Dir where
  | read | write
  deriving DecidableEq, Repr, Inhabited

/-- A bus transaction as the host may put it on its port: a byte offset from `RCCSEQ_BASE`, a width in bytes and a data word.
Only 4 bytes at a multiple of 4 below 0x80 is admitted (rules R62, R84); the others can be written here and are refused. -/
structure Transaction where
  dir : Dir
  off : Nat
  width : Nat
  data : Word
  deriving DecidableEq, Repr, Inhabited

/-- The three transitions of the clock tree (rules R160 to R162). -/
inductive EnvEvent where
  | hseRdy | pllRdy | switch
  deriving DecidableEq, Repr, Inhabited

/-- One bus command of a `COMMIT`: a `WRPLAN`, or the `START` that ends it (rule R104). -/
inductive CommitCommand where
  | write (r : PlanReg) (v : Word)
  | start
  deriving DecidableEq, Repr, Inhabited

/-- One move of an agent (rules R5, R91). Every move of the host is one bus command: a transaction, the first command of a
`COMMIT`, or the next command of a `COMMIT` it has begun. The others are the sequencer's step, a transition of the clock tree, and
the reset input (rule R200, D2). -/
inductive Move where
  | seq
  | host (t : Transaction)
  | commit (p : Plan)
  | hostNext
  | env (e : EnvEvent)
  | reset
  deriving DecidableEq, Repr, Inhabited

/-- All plan registers, in the order in which `COMMIT` writes them (rule R104). -/
def PlanReg.all : List PlanReg :=
  [.cfg, .freq .sysclk, .freq .ahb, .freq .apb1, .freq .apb2, .freq .pll, .freq .usb]

/-- One of the six frequency registers. -/
def Freqs.get (f : Freqs) : FreqReg → Word
  | .sysclk => f.sysclk
  | .ahb => f.ahb
  | .apb1 => f.apb1
  | .apb2 => f.apb2
  | .pll => f.pll
  | .usb => f.usb

/-- One of the six frequency registers replaced. -/
def Freqs.set (f : Freqs) (r : FreqReg) (v : Word) : Freqs :=
  match r with
  | .sysclk => { f with sysclk := v }
  | .ahb => { f with ahb := v }
  | .apb1 => { f with apb1 := v }
  | .apb2 => { f with apb2 := v }
  | .pll => { f with pll := v }
  | .usb => { f with usb := v }

/-- One word of a plan. -/
def Plan.get (p : Plan) : PlanReg → Word
  | .cfg => p.cfg
  | .freq r => p.f.get r

/-- One word of a plan replaced. -/
def Plan.set (p : Plan) (r : PlanReg) (v : Word) : Plan :=
  match r with
  | .cfg => { p with cfg := v }
  | .freq q => { p with f := p.f.set q v }

end Sys2Proof
end

