-- ==== Sys2Proof/Config.lean ====
section
/-! DEFINITION. What one instance of the block fixes (the parameters of rule R7 under the constraints of rules R7 and R8), and
the free values: the agent that moves when nothing is scheduled (U9), and the frequency of the reserved clock source (U7). -/

namespace Sys2Proof.Config

/-- The ratios of the AHB prescaler (rule R35). -/
def hpreRatios : List Nat := [1, 2, 4, 8, 16, 64, 128, 256, 512]

/-- The ratios of the APB prescalers (rule R35). -/
def ppreRatios : List Nat := [1, 2, 4, 8, 16]

/-- The PLL multipliers (rule R35). -/
def pllmulRatios : List Nat := [2, 3, 4, 5, 6, 7, 8, 9, 10, 11, 12, 13, 14, 15, 16]

/-- The parameters of one instance (rule R7), every one OPEN, carried with the constraints every parameter set meets (the types
and ranges of rule R7, and rule R8: `ParamsOk` of rule R205). The default values are the reference instantiation REF72 of rule
R8, claimed of no chip, with the scenario value 8 000 000 for `F_EXT` (program P4). -/
structure Params where
  /-- `F_INT`, Hz. -/
  fInt : Nat := 8000000
  /-- `F_EXT`, Hz: read by the observation functions and the plan premise only. -/
  fExt : Nat := 8000000
  maxSysclk : Nat := 72000000
  maxAhb : Nat := 72000000
  maxApb1 : Nat := 36000000
  maxApb2 : Nat := 72000000
  hpreSet : List Nat := hpreRatios
  ppre1Set : List Nat := ppreRatios
  ppre2Set : List Nat := ppreRatios
  pllmulSet : List Nat := pllmulRatios
  /-- `WS_CEIL[w]` is the highest SYSCLK at `w` wait states. -/
  wsCeil : List Nat := [24000000, 48000000, 72000000]
  hasUsbpre : Bool := true
  usbRequired : Bool := true
  hasPlldiv : Bool := true
  nOsc : Nat := 4
  nPll : Nat := 4
  nSw : Nat := 4
  /-- `RCCSEQ_BASE`. -/
  base : Nat := 0
  fInt_range : 0 < fInt ∧ fInt < 2 ^ 32 := by decide
  fExt_range : 0 < fExt ∧ fExt < 2 ^ 32 := by decide
  hpreSet_sub : ∀ r ∈ hpreSet, r ∈ hpreRatios := by decide
  ppre1Set_sub : ∀ r ∈ ppre1Set, r ∈ ppreRatios := by decide
  ppre2Set_sub : ∀ r ∈ ppre2Set, r ∈ ppreRatios := by decide
  pllmulSet_sub : ∀ r ∈ pllmulSet, r ∈ pllmulRatios := by decide
  wsCeil_increasing : wsCeil.Pairwise (· < ·) := by decide
  wsCeil_length : 0 < wsCeil.length ∧ wsCeil.length ≤ 8 := by decide
  nOsc_range : 1 ≤ nOsc ∧ nOsc < 2 ^ 32 := by decide
  nPll_range : 1 ≤ nPll ∧ nPll < 2 ^ 32 := by decide
  nSw_range : 1 ≤ nSw ∧ nSw < 2 ^ 32 := by decide
  base_aligned : base % 0x80 = 0 := by decide
  /-- Rule R8: the reset configuration is legal at zero wait states. -/
  fInt_le_wsCeil : fInt ≤ wsCeil.headD 0 := by decide
  /-- Rule R8: the reset configuration exceeds no bus maximum. -/
  fInt_le_max : fInt ≤ maxSysclk ∧ fInt ≤ maxAhb ∧ fInt ≤ maxApb1 ∧ fInt ≤ maxApb2 := by decide
  /-- Rule R8: the reset dividers are valid. -/
  one_valid : 1 ∈ hpreSet ∧ 1 ∈ ppre1Set ∧ 1 ∈ ppre2Set := by decide
  deriving Inhabited

/-- The reference instantiation of rule R8. -/
def ref72 : Params := {}

/-- `F_USB`: the exact USB clock, fixed by the source (rule R7). -/
def fUsb : Nat := 48000000

/-- The parameters of this instance: OPEN (rule R7, D6, D14, D31), so nothing is known of them but their constraints. -/
opaque params : Params

/-- FREE VALUE (U9, rules R5, R165): the move made when no move is scheduled; any agent may take any step. -/
opaque freeMove : Nat → Move

/-- FREE VALUE (U7): the frequency of the reserved clock source `0b11`, as a function of the `CFGR` word. -/
opaque reservedSrcFreq : Word → ℚ≥0

end Sys2Proof.Config
end

