-- ==== Sys2Proof/WellFormed.lean ====
section
/-! DEFINITION. The well-formed instructions: the terms that an encoding of rules R81, R82 and R84 spells. A micro-operation, a
read, `START` and a `WRPLAN` are well-formed for every operand. -/

namespace Sys2Proof

/-- The reserved bits of `PLAN_CFG`: 31:28, 15:14 and 3:2 (rule R82). -/
def planReservedMask : Word := 0xF000C00C#32

/-- The reserved bits of a plan's word 0 are zero (rule R82, the pattern of the table's `COMMIT` row). -/
def Plan.reservedZero (p : Plan) : Bool := p.cfg &&& planReservedMask == 0

/-- A write to word `o` is neither a `WRPLAN` (words 8 to 14) nor, at `CTRL` (word 4), a `START` (rules R84, R103). -/
def ignoredWrite (o : BitVec 5) (v : Word) : Bool :=
  !(decide (8 ≤ o.toNat) && decide (o.toNat ≤ 14)) && !(o == 4#5 && v.getLsbD 0)

/-- The instruction is spelt by some encoding. -/
def Instr.wellFormed : Instr → Bool
  | .wrign o v => ignoredWrite o v
  | .commit p => p.reservedZero
  | .idle | .hseEn | .hseWait | .pllCfg | .pllEn | .pllWait | .flashWs | .prescPre | .swSet | .swWait | .prescPost
  | .emit | .done | .failed | .rsvd14 | .rsvd15 | .rdreg _ | .wrplan _ _ | .start => true

end Sys2Proof
end

