-- ==== Sys2Proof/Decode.lean ====
section
/-! DEFINITION. Decoding and encoding (rules R80 to R84, R89, R92, R104). A decoder tells the format from where the bits are
(rule R80): `STATUS.STATE` is a `UOP`, a bus transaction a `HOST`, seven plan words a `PLAN`. -/

namespace Sys2Proof

/-- The three formats (rule R80). -/
inductive Format where
  | uop | plan | host
  deriving DecidableEq, Repr, Inhabited

/-- Why bits, or a bus transaction, are no instruction. -/
inductive DecodeError where
  /-- a `UOP` is shown in one byte -/
  | uopLength
  /-- a `UOP` has 4 bits: the byte's bits 7:4 are zero -/
  | uopHighBits
  /-- a `PLAN` is seven words -/
  | planLength
  /-- a reserved bit of `PLAN_CFG` is set (rule R82) -/
  | planReservedBits
  /-- a packed `HOST` transaction is 40 bits (rule R84) -/
  | hostLength
  /-- a host access of a width other than 4 bytes (rule R62, U3) -/
  | hostWidth
  /-- a host access outside offsets 0x00 to 0x7F (rule R62, U3) -/
  | hostOutside
  /-- a host access at an offset that is not a multiple of 4 (rule R62, U3) -/
  | hostMisaligned
  deriving DecidableEq, Repr, Inhabited

/-! ## The codes of format UOP (rule R81) -/

namespace Code
@[simp] abbrev idle : BitVec 4 := 0#4
@[simp] abbrev hseEn : BitVec 4 := 1#4
@[simp] abbrev hseWait : BitVec 4 := 2#4
@[simp] abbrev pllCfg : BitVec 4 := 3#4
@[simp] abbrev pllEn : BitVec 4 := 4#4
@[simp] abbrev pllWait : BitVec 4 := 5#4
@[simp] abbrev flashWs : BitVec 4 := 6#4
@[simp] abbrev prescPre : BitVec 4 := 7#4
@[simp] abbrev swSet : BitVec 4 := 8#4
@[simp] abbrev swWait : BitVec 4 := 9#4
@[simp] abbrev prescPost : BitVec 4 := 10#4
@[simp] abbrev emit : BitVec 4 := 11#4
@[simp] abbrev done : BitVec 4 := 12#4
@[simp] abbrev failed : BitVec 4 := 13#4
@[simp] abbrev rsvd14 : BitVec 4 := 14#4
@[simp] abbrev rsvd15 : BitVec 4 := 15#4
end Code

/-- The micro-operation a value of `STATE` names: all 16 codes are assigned (rule R81). -/
def decodeUop (c : BitVec 4) : Instr :=
  match c.toNat with
  | 0 => .idle
  | 1 => .hseEn
  | 2 => .hseWait
  | 3 => .pllCfg
  | 4 => .pllEn
  | 5 => .pllWait
  | 6 => .flashWs
  | 7 => .prescPre
  | 8 => .swSet
  | 9 => .swWait
  | 10 => .prescPost
  | 11 => .emit
  | 12 => .done
  | 13 => .failed
  | 14 => .rsvd14
  | _ => .rsvd15

/-! ## The word indices of the register space (rule R60), `off[6:2]` -/

/-- The frequency register at place `k` of words 1 to 6 (rule R83). -/
def freqRegAt (k : Nat) : Option FreqReg :=
  match k with
  | 0 => some .sysclk
  | 1 => some .ahb
  | 2 => some .apb1
  | 3 => some .apb2
  | 4 => some .pll
  | 5 => some .usb
  | _ => none

/-- The place of a frequency register among words 1 to 6 (rule R83). -/
def freqRegPlace : FreqReg → Nat
  | .sysclk => 0
  | .ahb => 1
  | .apb1 => 2
  | .apb2 => 3
  | .pll => 4
  | .usb => 5

/-- The plan register at word index `o`: 8 (0x20) to 14 (0x38), rule R60. -/
def planRegAt (o : BitVec 5) : Option PlanReg :=
  if o = 8#5 then some .cfg
  else if o.toNat < 9 then none
  else (freqRegAt (o.toNat - 9)).map .freq

/-- The word index of a plan register (rule R60). -/
def planRegIndex : PlanReg → BitVec 5
  | .cfg => 8#5
  | .freq r => BitVec.ofNat 5 (9 + freqRegPlace r)

/-- The register at word index `o`, or none for an unmapped word: the whole map of rule R60. -/
def regAt (o : BitVec 5) : Option Reg :=
  match o.toNat with
  | 0 => some .cr
  | 1 => some .cfgr
  | 2 => some .acr
  | 4 => some .ctrl
  | 5 => some .status
  | 6 => some .cnt
  | 7 => some .curSysclk
  | k =>
    match planRegAt o with
    | some r => some (.plan r)
    | none => if k < 16 then none else (freqRegAt (k - 16)).map .fc

/-! ## Format HOST (rules R62, R84) -/

/-- The command a 32-bit write to word `o` is: `WRPLAN`, `START`, and `WRIGN` for every other one (rule R84). A `WRPLAN` to a
locked register is a `WRPLAN` that changes nothing (rule R100). -/
def decodeWrite (o : BitVec 5) (v : Word) : Instr :=
  match planRegAt o with
  | some r => .wrplan r v
  | none => if o = 4#5 ∧ v.getLsbD 0 = true then .start else .wrign o v

/-- The command a bus transaction is, or why it is not admitted (rules R62, R84). -/
def decodeHost (t : Transaction) : Except DecodeError Instr :=
  if t.width ≠ 4 then .error .hostWidth
  else if 0x80 ≤ t.off then .error .hostOutside
  else if t.off % 4 ≠ 0 then .error .hostMisaligned
  else
    match t.dir with
    | .read => .ok (.rdreg (BitVec.ofNat 5 (t.off / 4)))
    | .write => .ok (decodeWrite (BitVec.ofNat 5 (t.off / 4)) t.data)

/-- The transaction a 40-bit string `dir ++ off[6:0] ++ data[31:0]` packs (rule R84, D35): always 4 bytes wide. -/
def unpackTransaction (b : BitVec 40) : Transaction :=
  { dir := if b.getLsbD 39 then .write else .read
    off := (b.extractLsb' 32 7).toNat
    width := 4
    data := b.extractLsb' 0 32 }

/-- The 40-bit string of a transaction (rule R84, D35). -/
def packTransaction (t : Transaction) : BitVec 40 :=
  BitVec.ofBool (t.dir == .write) ++ BitVec.ofNat 7 t.off ++ t.data

/-! ## Format PLAN (rules R82, R83, R92) -/

/-- Seven plan words as a `COMMIT`, refused when a reserved bit of word 0 is set (the pattern of the table's row). -/
def decodePlan (p : Plan) : Except DecodeError Instr :=
  if p.reservedZero then .ok (.commit p) else .error .planReservedBits

/-- Seven words from a number, word 0 in its low 32 bits. -/
def planOfNat (n : Nat) : Plan :=
  { cfg := BitVec.ofNat 32 n
    f :=
      { sysclk := BitVec.ofNat 32 (n >>> 32)
        ahb := BitVec.ofNat 32 (n >>> 64)
        apb1 := BitVec.ofNat 32 (n >>> 96)
        apb2 := BitVec.ofNat 32 (n >>> 128)
        pll := BitVec.ofNat 32 (n >>> 160)
        usb := BitVec.ofNat 32 (n >>> 192) } }

/-- Seven words as one bit string, word 0 lowest. -/
def planBits (p : Plan) : BitVec 224 :=
  p.f.usb ++ p.f.pll ++ p.f.apb2 ++ p.f.apb1 ++ p.f.ahb ++ p.f.sysclk ++ p.cfg

/-! ## Bytes (rule R63: little-endian wherever a word is shown as bytes) -/

/-- The low `n` bytes of a number, lowest byte first. -/
def leBytes : Nat → Nat → List Byte
  | 0, _ => []
  | n + 1, w => BitVec.ofNat 8 w :: leBytes n (w / 256)

/-- The number whose bytes, lowest first, these are. -/
def ofLeBytes : List Byte → Nat
  | [] => 0
  | b :: bs => b.toNat + 256 * ofLeBytes bs

/-- How many bytes an instruction of a format is shown in. -/
def formatBytes : Format → Nat
  | .uop => 1
  | .plan => 28
  | .host => 5

/-- THE DECODER: total on any bytes, rejecting by name. -/
def decode (f : Format) (bytes : List Byte) : Except DecodeError Instr :=
  match f with
  | .uop =>
    match bytes with
    | [b] => if b.extractLsb' 4 4 = 0#4 then .ok (decodeUop (b.extractLsb' 0 4)) else .error .uopHighBits
    | _ => .error .uopLength
  | .plan => if bytes.length = 28 then decodePlan (planOfNat (ofLeBytes bytes)) else .error .planLength
  | .host =>
    if bytes.length = 5 then decodeHost (unpackTransaction (BitVec.ofNat 40 (ofLeBytes bytes)))
    else .error .hostLength

/-! ## The encoder, from the same tables -/

/-- The format of an instruction (rule R80). -/
def formatOf : Instr → Format
  | .idle | .hseEn | .hseWait | .pllCfg | .pllEn | .pllWait | .flashWs | .prescPre | .swSet | .swWait | .prescPost
  | .emit | .done | .failed | .rsvd14 | .rsvd15 => .uop
  | .rdreg _ | .wrplan _ _ | .start | .wrign _ _ => .host
  | .commit _ => .plan

/-- The `UOP` byte of a code. -/
def encodeUop (c : BitVec 4) : List Byte := [0#4 ++ c]

/-- The bytes of a 32-bit transaction at word `o`. -/
def encodeHost (d : Dir) (o : BitVec 5) (v : Word) : List Byte :=
  leBytes 5 (packTransaction { dir := d, off := 4 * o.toNat, width := 4, data := v }).toNat

/-- The bytes of an instruction. The bits rules R84 and R102 call ignored (`START`'s `data[31:1]`, a read's data) are encoded
as zeros. -/
def encode : Instr → List Byte
  | .idle => encodeUop Code.idle
  | .hseEn => encodeUop Code.hseEn
  | .hseWait => encodeUop Code.hseWait
  | .pllCfg => encodeUop Code.pllCfg
  | .pllEn => encodeUop Code.pllEn
  | .pllWait => encodeUop Code.pllWait
  | .flashWs => encodeUop Code.flashWs
  | .prescPre => encodeUop Code.prescPre
  | .swSet => encodeUop Code.swSet
  | .swWait => encodeUop Code.swWait
  | .prescPost => encodeUop Code.prescPost
  | .emit => encodeUop Code.emit
  | .done => encodeUop Code.done
  | .failed => encodeUop Code.failed
  | .rsvd14 => encodeUop Code.rsvd14
  | .rsvd15 => encodeUop Code.rsvd15
  | .rdreg o => encodeHost .read o 0#32
  | .wrplan r v => encodeHost .write (planRegIndex r) v
  | .start => encodeHost .write 4#5 1#32
  | .wrign o v => encodeHost .write o v
  | .commit p => leBytes 28 (planBits p).toNat

/-! ## The table's numbering -/

/-- The format of a row of the opcode table, by its width: 4 bits (or the byte they stand in) for `UOP`, 40 for `HOST`, 32
(word 0) or 224 (all seven words) for `PLAN`. -/
def formatOfWidth (nbits : Nat) : Option Format :=
  if nbits = 4 ∨ nbits = 8 then some .uop
  else if nbits = 40 then some .host
  else if nbits = 32 ∨ nbits = 224 then some .plan
  else none

/-- The instruction the decoder reads from bits numbered as the opcode table numbers them, every bit above them 0. -/
def decodeTableWord (nbits w : Nat) : Option Instr :=
  match formatOfWidth nbits with
  | none => none
  | some f =>
    match decode f (leBytes (formatBytes f) w) with
    | .ok i => some i
    | .error _ => none

end Sys2Proof
end

