-- ==== Sys2Proof/Machine/State.lean ====
section
/-! DEFINITION. The state as plain data: every register of rules R20 to R32 under its own name, one home each, and the model's
own four fields (INVENTORY.md, '## State'). Reserved bits are not stored: they read 0 and nothing writes them. -/

namespace Sys2Proof.Machine

/-- Why the machine stops with a fault. -/
inductive Fault where
  /-- U1: `PLL_CFG` ran with `CR.PLLON = 1` ("changing them while running is undefined"). Raised by `execPllCfg` only. SAFE:
  nothing is provable past it, and no run from reset meets it (rule R113 corner case (a)). -/
  | pllParamsWhileRunning
  deriving DecidableEq, Repr

/-- Why a move is refused. -/
inductive Refusal where
  /-- The instruction has no meaning yet: raised by the arms of `exec` alone. SAFE. No arm raises it in this model. -/
  | notModelled (mnemonic : String)
  /-- U3, rule R62: a host access that is narrower than 32 bits, misaligned or outside the register space, with which of these
  it is. Raised by `applyMove`, before any instruction. SAFE: the block gives such an access no meaning. -/
  | hostAccess (e : DecodeError)
  /-- U4: the reset input asserted while `BUSY = 1` or `START_PEND = 1`. Raised by `applyMove`. SAFE: the move is not in the
  model; what reset does to the block's registers from any state is `resetBlock` (rules R200, R201). -/
  | resetDuringCommit
  deriving DecidableEq, Repr

/-- `CR`, offset 0x00 (rule R26). -/
structure Cr where
  hseon : Bool
  hserdy : Bool
  hsebyp : Bool
  pllon : Bool
  pllrdy : Bool
  deriving DecidableEq, Repr

/-- `CFGR`, offset 0x04 (rule R27). -/
structure Cfgr where
  sw : BitVec 2
  sws : BitVec 2
  hpre : BitVec 4
  ppre1 : BitVec 3
  ppre2 : BitVec 3
  pllsrc : Bool
  pllxtpre : Bool
  pllmul : BitVec 4
  usbpre : Bool
  deriving DecidableEq, Repr

/-- `ACR`, offset 0x08 (rule R28). -/
structure Acr where
  latency : BitVec 3
  deriving DecidableEq, Repr

/-- `STATUS`, offset 0x14 (rule R30); `BUSY` is derived. `state` is the program counter (rule R23). -/
structure Status where
  state : BitVec 4
  err : BitVec 2
  startPend : Bool
  fcValid : Bool
  fcPllValid : Bool
  fcUsbValid : Bool
  deriving DecidableEq, Repr

/-- The whole state. `CTRL` stores nothing (rule R29). -/
structure State where
  cr : Cr
  cfgr : Cfgr
  acr : Acr
  status : Status
  /-- `CNT`, offset 0x18: unsuccessful polls of the current wait (rule R31). -/
  cnt : Word
  /-- `CUR_SYSCLK`, offset 0x1C (rule R32). -/
  curSysclk : Word
  /-- `PLAN_CFG` and `PLAN_F_*`, offsets 0x20 to 0x38 (rule R21). -/
  plan : Plan
  /-- `FC_*`, offsets 0x40 to 0x54: the FrozenClocks record (rule R22). -/
  fc : Freqs
  /-- THE MODEL'S OWN: the word the host's last `RDREG` returned to it (rule R102; log 5). -/
  hostRdata : Word
  /-- THE MODEL'S OWN: the bus commands still to come of the `COMMIT`s the host has begun, next one first (rule R104; log 11). -/
  hostProgram : List CommitCommand
  /-- THE MODEL'S OWN: the moves already drawn, next one first (rule R166; logs 1 and 6). -/
  schedule : List Move
  /-- THE MODEL'S OWN: how many moves the free value has supplied (logs 1 and 6). -/
  draws : Nat
  deriving DecidableEq, Repr

/-- What a step answers. -/
abbrev Result := Host.Outcome State Fault Refusal

/-- The reset state of an instance with parameters `cfg`: everything zero but `CUR_SYSCLK = F_INT` (rules R40, R202). -/
def State.resetWith (cfg : Config.Params) : State :=
  { cr := { hseon := false, hserdy := false, hsebyp := false, pllon := false, pllrdy := false }
    cfgr :=
      { sw := 0#2, sws := 0#2, hpre := 0#4, ppre1 := 0#3, ppre2 := 0#3, pllsrc := false, pllxtpre := false,
        pllmul := 0#4, usbpre := false }
    acr := { latency := 0#3 }
    status :=
      { state := Code.idle, err := 0#2, startPend := false, fcValid := false, fcPllValid := false, fcUsbValid := false }
    cnt := 0#32
    curSysclk := BitVec.ofNat 32 cfg.fInt
    plan := { cfg := 0#32, f := { sysclk := 0#32, ahb := 0#32, apb1 := 0#32, apb2 := 0#32, pll := 0#32, usb := 0#32 } }
    fc := { sysclk := 0#32, ahb := 0#32, apb1 := 0#32, apb2 := 0#32, pll := 0#32, usb := 0#32 }
    hostRdata := 0#32
    hostProgram := []
    schedule := []
    draws := 0 }

/-- The machine right after reset (rules R40, R200, R203). -/
def State.reset : State := State.resetWith Config.params

end Sys2Proof.Machine
end

