-- ==== Sys2Proof/Machine/Operands.lean ====
section
/-! DEFINITION. The operands of a micro-operation: the fields of the plan (rule R82), the predicates that decode the plan for
control flow (rule R85), and the structural predicate `wf` that `START` checks (rule R88). -/

namespace Sys2Proof

/-- `P.SRC`, bits 1:0. -/
def Plan.src (p : Plan) : BitVec 2 := p.cfg.extractLsb' 0 2
/-- `P.HPRE`, bits 7:4. -/
def Plan.hpre (p : Plan) : BitVec 4 := p.cfg.extractLsb' 4 4
/-- `P.PPRE1`, bits 10:8. -/
def Plan.ppre1 (p : Plan) : BitVec 3 := p.cfg.extractLsb' 8 3
/-- `P.PPRE2`, bits 13:11. -/
def Plan.ppre2 (p : Plan) : BitVec 3 := p.cfg.extractLsb' 11 3
/-- `P.PLLIN`, bit 16. -/
def Plan.pllin (p : Plan) : Bool := p.cfg.getLsbD 16
/-- `P.PLLDIV`, bit 17. -/
def Plan.plldiv (p : Plan) : Bool := p.cfg.getLsbD 17
/-- `P.PLLMUL`, bits 21:18. -/
def Plan.pllmul (p : Plan) : BitVec 4 := p.cfg.extractLsb' 18 4
/-- `P.USBPRE`, bit 22. -/
def Plan.usbpre (p : Plan) : Bool := p.cfg.getLsbD 22
/-- `P.USB_EN`, bit 23. -/
def Plan.usbEn (p : Plan) : Bool := p.cfg.getLsbD 23
/-- `P.HSEBYP`, bit 24. -/
def Plan.hsebyp (p : Plan) : Bool := p.cfg.getLsbD 24
/-- `P.WS`, bits 27:25. -/
def Plan.ws (p : Plan) : BitVec 3 := p.cfg.extractLsb' 25 3

/-- The PLL is the system clock (rule R85). -/
def Plan.pllSelected (p : Plan) : Bool := p.src == 0b10#2

/-- The external oscillator is the system clock or the PLL's input (rule R85). -/
def Plan.extSelected (p : Plan) : Bool := p.src == 0b01#2 || (p.src == 0b10#2 && p.pllin)

namespace Machine

/-- `raise_first(P)`: the target SYSCLK is at or above the current one, as unsigned words (rules R85, R131). -/
def raiseFirst (s : State) : Bool := decide (s.curSysclk.toNat ≤ s.plan.f.sysclk.toNat)

/-- `wf`: the only check the block makes of a plan (rule R88). -/
def planWf (cfg : Config.Params) (p : Plan) : Bool :=
  p.reservedZero
  && p.src != 0b11#2
  && decide (p.ws.toNat < cfg.wsCeil.length)
  && (cfg.hasUsbpre || (!p.usbpre && !p.usbEn))
  && (cfg.hasPlldiv || !p.plldiv)
  && p.f.sysclk != 0#32 && p.f.ahb != 0#32
  && p.f.apb1 != 0#32 && p.f.apb2 != 0#32
  && (!p.pllSelected || p.f.pll != 0#32)
  && (!p.usbEn || p.f.usb != 0#32)

end Machine

end Sys2Proof
end

