-- ==== Sys2Proof/Machine/Flags.lean ====
section
/-! DEFINITION. The flags of `STATUS`: the derived `BUSY` (rule R25), the three phases they tell (rule R181), and the validity
flags `EMIT` computes (rule R150). The block has no arithmetic condition codes. -/

namespace Sys2Proof.Machine

/-- The sequencer is in `DONE` or `FAILED` (rules R154, R181). -/
def terminal (s : State) : Bool := s.status.state == Code.done || s.status.state == Code.failed

/-- `BUSY`: 1 exactly when `STATE` is none of `IDLE`, `DONE`, `FAILED` (rule R25). -/
def busy (t : Status) : Bool := !(t.state == Code.idle || t.state == Code.done || t.state == Code.failed)

/-- Unlocked: `STATE = IDLE` and `START_PEND = 0` (rules R60, R181). -/
def unlocked (s : State) : Bool := s.status.state == Code.idle && !s.status.startPend

/-- Committing: `START_PEND = 1` or `BUSY = 1` (rule R181). -/
def committing (s : State) : Bool := s.status.startPend || busy s.status

/-- The validity flags of an emitted record: `FC_PLL_VALID` iff the PLL is the system clock, `FC_USB_VALID` as `P.USB_EN`
(rule R150). -/
def emittedFlags (p : Plan) (t : Status) : Status :=
  { t with fcValid := true, fcPllValid := p.pllSelected, fcUsbValid := p.usbEn }

end Sys2Proof.Machine
end

