-- ==== Sys2Proof/Machine/Ops.lean ====
section
/-! DEFINITION. The named operations on registers: reading a word of the register space (rules R60, R72), writing a plan word
(rule R100), moving the program counter, a poll (rules R112, R115, R134), ERROR ENTRY (rule R174), reset (rule R200), and the
byte view of rule R63. There is no return from an error (rule R179), so there is no operation for one. -/

namespace Sys2Proof.Machine

/-! ## Hardwired fields (rule R27) -/

/-- `PLLXTPRE` is hardwired 0 when `HAS_PLLDIV` is false. -/
def wirePlldiv (cfg : Config.Params) (b : Bool) : Bool := cfg.hasPlldiv && b

/-- `USBPRE` is hardwired 0 when `HAS_USBPRE` is false. -/
def wireUsbpre (cfg : Config.Params) (b : Bool) : Bool := cfg.hasUsbpre && b

/-! ## Register words as the host reads them, reserved bits 0 -/

/-- The field `x` at bit `lo` of an otherwise zero word (rule R9). -/
def fieldAt {n : Nat} (lo : Nat) (x : BitVec n) : Word := x.setWidth 32 <<< lo

/-- The one-bit field `b` at bit `i` of an otherwise zero word (rule R9). -/
def bitAt (i : Nat) (b : Bool) : Word := fieldAt i (BitVec.ofBool b)

/-- `CR` as a word (rule R26). -/
def crWord (r : Cr) : Word :=
  bitAt 16 r.hseon ||| bitAt 17 r.hserdy ||| bitAt 18 r.hsebyp ||| bitAt 24 r.pllon ||| bitAt 25 r.pllrdy

/-- `CFGR` as a word (rule R27). -/
def cfgrWord (cfg : Config.Params) (r : Cfgr) : Word :=
  fieldAt 0 r.sw ||| fieldAt 2 r.sws ||| fieldAt 4 r.hpre ||| fieldAt 8 r.ppre1 ||| fieldAt 11 r.ppre2
    ||| bitAt 16 r.pllsrc ||| bitAt 17 (wirePlldiv cfg r.pllxtpre) ||| fieldAt 18 r.pllmul
    ||| bitAt 22 (wireUsbpre cfg r.usbpre)

/-- `ACR` as a word (rule R28). -/
def acrWord (r : Acr) : Word := fieldAt 0 r.latency

/-- `STATUS` as a word, `BUSY` computed (rules R25, R30). -/
def statusWord (t : Status) : Word :=
  fieldAt 0 t.state ||| fieldAt 4 t.err ||| bitAt 6 t.startPend ||| bitAt 7 (busy t) ||| bitAt 8 t.fcValid
    ||| bitAt 9 t.fcPllValid ||| bitAt 10 t.fcUsbValid

/-- The word a register reads as; `CTRL` reads 0 (rules R29, R72). -/
def readReg (cfg : Config.Params) (s : State) : Reg → Word
  | .cr => crWord s.cr
  | .cfgr => cfgrWord cfg s.cfgr
  | .acr => acrWord s.acr
  | .ctrl => 0#32
  | .status => statusWord s.status
  | .cnt => s.cnt
  | .curSysclk => s.curSysclk
  | .plan r => s.plan.get r
  | .fc r => s.fc.get r

/-- `MemRead` of the word at index `o` (offset `4*o`): the register, or 0 for an unmapped word (rules R60, R72). -/
def memRead (cfg : Config.Params) (s : State) (o : BitVec 5) : Word :=
  match regAt o with
  | some r => readReg cfg s r
  | none => 0#32

/-- The offset of a byte address in the register space, or none outside it (rules R60, R62). -/
def offsetOf (cfg : Config.Params) (addr : Nat) : Option Nat :=
  if cfg.base ≤ addr ∧ addr < cfg.base + 0x80 then some (addr - cfg.base) else none

/-! ## The byte view (rule R63: a word shown as bytes is little-endian) -/

/-- The byte at offset `k` of the register space; 0 outside it. -/
def byteAt (cfg : Config.Params) (s : State) (k : Nat) : Byte :=
  if k < 0x80 then (memRead cfg s (BitVec.ofNat 5 (k / 4))).extractLsb' (8 * (k % 4)) 8 else 0#8

/-- A dump of the register space: its non-zero bytes by address, an unlisted address reading 0 (log 7). -/
def dump (cfg : Config.Params) (s : State) : List Host.Cell :=
  (List.range 0x80).filterMap fun k => if byteAt cfg s k = 0#8 then none else some (cfg.base + k, byteAt cfg s k)

/-- The canonical form of a list of cells: addresses strictly rising, no cell equal to what an unlisted address reads as. -/
def Memory.wf : List Host.Cell → Bool
  | [] => true
  | [c] => c.2 != 0#8
  | c :: d :: rest => c.2 != 0#8 && decide (c.1 < d.1) && Memory.wf (d :: rest)

/-! ## Writes -/

/-- `pc <- c` (rules R10, R23). -/
def goto (c : BitVec 4) (s : State) : State := { s with status.state := c }

/-- `x[planreg] <- v` while unlocked, no change otherwise; all 32 bits, unchecked (rule R100). -/
def writePlan (r : PlanReg) (v : Word) (s : State) : State :=
  if unlocked s then { s with plan := s.plan.set r v } else s

/-- The `START` command: accepted iff unlocked and `wf` (rule R101). -/
def acceptStart (cfg : Config.Params) (s : State) : State :=
  if unlocked s && planWf cfg s.plan then { s with status.startPend := true } else s

/-- The eight bus commands of `COMMIT p`, in order (rule R104). -/
def commitCommands (p : Plan) : List CommitCommand := PlanReg.all.map (fun r => .write r (p.get r)) ++ [.start]

/-- One bus command of a `COMMIT`: the same effect as the `WRPLAN` or `START` it is (rules R100, R101, R104). -/
def commitCommand (cfg : Config.Params) (c : CommitCommand) (s : State) : State :=
  match c with
  | .write r v => writePlan r v s
  | .start => acceptStart cfg s

/-- One host step of a `COMMIT` under way: its next bus command; with none to come, no change (rules R5, R104; log 11). -/
def hostNext (cfg : Config.Params) (s : State) : State :=
  match s.hostProgram with
  | [] => s
  | c :: cs => commitCommand cfg c { s with hostProgram := cs }

/-- The four prescaler fields, in one write (rules R132, R135, R209). -/
def writePrescalers (cfg : Config.Params) (s : State) : State :=
  { s with
    cfgr.hpre := s.plan.hpre
    cfgr.ppre1 := s.plan.ppre1
    cfgr.ppre2 := s.plan.ppre2
    cfgr.usbpre := wireUsbpre cfg s.plan.usbpre }

/-- The three PLL parameter fields, in one write (rule R113). -/
def writePllParams (cfg : Config.Params) (s : State) : State :=
  { s with
    cfgr.pllsrc := s.plan.pllin
    cfgr.pllxtpre := wirePlldiv cfg s.plan.plldiv
    cfgr.pllmul := s.plan.pllmul }

/-! ## Errors -/

/-- The three errors of the block (rule R170). -/
inductive TimeoutError where
  | oscillatorStartup | pllLock | clockSwitch
  deriving DecidableEq, Repr

/-- The code `STATUS.ERR` records (rule R170). -/
def errCode : TimeoutError → BitVec 2
  | .oscillatorStartup => 1#2
  | .pllLock => 2#2
  | .clockSwitch => 3#2

/-- ERROR ENTRY: `STATUS.ERR <- code`, `pc <- FAILED`, nothing else (rules R172, R174). -/
def raiseError (e : TimeoutError) (s : State) : State :=
  { s with status.err := errCode e, status.state := Code.failed }

/-- One poll of a bounded wait: the flag is tested first, the bound second; the `bound`-th unsuccessful poll raises the error,
an earlier one is counted (rules R112, R115, R134, R177). The sum is the exact natural number (log 10). -/
def poll (ready : Bool) (bound : Nat) (onReady : BitVec 4) (e : TimeoutError) (s : State) : State :=
  if ready then goto onReady s
  else if bound ≤ s.cnt.toNat + 1 then raiseError e s
  else { s with cnt := s.cnt + 1#32 }

/-! ## Reset -/

/-- Reset asserted, from any state: every register and environment flag at its reset value (rules R200, R201). What is not the
block's (the host's data and its commands to come, the moves to come) stays. -/
def resetBlock (cfg : Config.Params) (s : State) : State :=
  { State.resetWith cfg with
    hostRdata := s.hostRdata, hostProgram := s.hostProgram, schedule := s.schedule, draws := s.draws }

end Sys2Proof.Machine
end

