-- ==== Sys2Proof/Machine/EmitTerminal.lean ====
section
/-! DEFINITION. Step 6, the terminal states and the reserved codes (spec file 43). -/

namespace Sys2Proof.Machine

/-- `EMIT` (rule R150): six registers, three flags and `CUR_SYSCLK` in one step. -/
def execEmit (s : State) : Result :=
  .next
    (goto Code.done
      { s with fc := s.plan.f, status := emittedFlags s.plan s.status, curSysclk := s.plan.f.sysclk })

/-- `DONE` (rule R151): no change. -/
def execDone (s : State) : Result := .next s

/-- `FAILED` (rule R152): no change. -/
def execFailed (s : State) : Result := .next s

/-- `RSVD14` (rule R153): `pc <- FAILED`, `STATUS.ERR` unchanged. -/
def execRsvd14 (s : State) : Result := .next (goto Code.failed s)

/-- `RSVD15` (rule R153): `pc <- FAILED`, `STATUS.ERR` unchanged. -/
def execRsvd15 (s : State) : Result := .next (goto Code.failed s)

end Sys2Proof.Machine
end

