-- ==== Sys2Proof/Machine/FlashPrescalerSwitch.lean ====
section
/-! DEFINITION. The micro-operations of steps 3 to 5 (spec file 42): flash wait states, prescalers, clock-source switch and its
confirmation. -/

namespace Sys2Proof.Machine

/-- `FLASH_WS` (rule R130): program the wait states, then choose the order of steps 4 and 5 (rule R131). -/
def execFlashWs (s : State) : Result :=
  .next (goto (if raiseFirst s then Code.prescPre else Code.swSet) { s with acr.latency := s.plan.ws })

/-- `PRESC_PRE` (rule R132): the prescalers before the switch. -/
def execPrescPre (s : State) (cfg : Config.Params := Config.params) : Result :=
  .next (goto Code.swSet (writePrescalers cfg s))

/-- `SW_SET` (rule R133): request the switch. -/
def execSwSet (s : State) : Result := .next (goto Code.swWait { s with cfgr.sw := s.plan.src, cnt := 0#32 })

/-- `SW_WAIT` (rule R134): one poll of `CFGR.SWS` against the expected source. -/
def execSwWait (s : State) (cfg : Config.Params := Config.params) : Result :=
  .next
    (poll (s.cfgr.sws == s.plan.src) cfg.nSw (if raiseFirst s then Code.emit else Code.prescPost) .clockSwitch s)

/-- `PRESC_POST` (rule R135): the prescalers after the confirmed switch. -/
def execPrescPost (s : State) (cfg : Config.Params := Config.params) : Result :=
  .next (goto Code.emit (writePrescalers cfg s))

end Sys2Proof.Machine
end

