-- ==== Sys2Proof/Machine/HostCommands.lean ====
section
/-! DEFINITION. The host commands (spec file 40): `WRPLAN`, `START`, `RDREG`, `WRIGN` and the pseudo-instruction `COMMIT`. The
parameters of the instance are an argument whose default is `Config.params`. -/

namespace Sys2Proof.Machine

/-- `RDREG` (rule R102): the word goes to the host; the block's state does not change. -/
def execRdreg (o : BitVec 5) (s : State) (cfg : Config.Params := Config.params) : Result :=
  .next { s with hostRdata := memRead cfg s o }

/-- `WRPLAN` (rule R100). -/
def execWrplan (r : PlanReg) (v : Word) (s : State) : Result := .next (writePlan r v s)

/-- `START` (rule R101). -/
def execStart (s : State) (cfg : Config.Params := Config.params) : Result := .next (acceptStart cfg s)

/-- `WRIGN` (rule R103): no change. -/
def execWrign (_o : BitVec 5) (_v : Word) (s : State) : Result := .next s

/-- `COMMIT` (rule R104): eight bus commands, hence eight host steps (rule R5). Here the host begins it and makes ONE step: its
first command, or, behind a `COMMIT` still under way, the next command of that one. Each later command is a `hostNext` move (log
11). -/
def execCommit (p : Plan) (s : State) (cfg : Config.Params := Config.params) : Result :=
  .next (hostNext cfg { s with hostProgram := s.hostProgram ++ commitCommands p })

end Sys2Proof.Machine
end

