-- ==== Sys2Proof/Machine/OscillatorPll.lean ====
section
/-! DEFINITION. The micro-operations of steps 1 and 2 (spec file 41): dispatch, the external oscillator's enable and wait, the
PLL's configuration, enable and lock wait. -/

namespace Sys2Proof.Machine

/-- `IDLE` (rule R110): wait for a start, then dispatch to the first step the plan needs. -/
def execIdle (s : State) : Result :=
  .next
    (if s.status.startPend then
      goto (if s.plan.extSelected then Code.hseEn else if s.plan.pllSelected then Code.pllCfg else Code.flashWs)
        { s with status.startPend := false }
    else s)

/-- `HSE_EN` (rule R111): enable the external oscillator, its mode bit in the same step. -/
def execHseEn (s : State) : Result :=
  .next (goto Code.hseWait { s with cr.hsebyp := s.plan.hsebyp, cr.hseon := true, cnt := 0#32 })

/-- `HSE_WAIT` (rule R112): one poll of `CR.HSERDY`. -/
def execHseWait (s : State) (cfg : Config.Params := Config.params) : Result :=
  .next
    (poll s.cr.hserdy cfg.nOsc (if s.plan.pllSelected then Code.pllCfg else Code.flashWs) .oscillatorStartup s)

/-- `PLL_CFG` (rule R113): program the PLL's parameters while it is disabled; with the PLL running, undefined (U1). -/
def execPllCfg (s : State) (cfg : Config.Params := Config.params) : Result :=
  if s.cr.pllon then .fault .pllParamsWhileRunning else .next (goto Code.pllEn (writePllParams cfg s))

/-- `PLL_EN` (rule R114): enable the PLL. -/
def execPllEn (s : State) : Result := .next (goto Code.pllWait { s with cr.pllon := true, cnt := 0#32 })

/-- `PLL_WAIT` (rule R115): one poll of `CR.PLLRDY`. -/
def execPllWait (s : State) (cfg : Config.Params := Config.params) : Result :=
  .next (poll s.cr.pllrdy cfg.nPll Code.flashWs .pllLock s)

end Sys2Proof.Machine
end

