-- ==== Sys2Proof/Machine/Dispatch.lean ====
section
/-! DEFINITION. The dispatch: one arm per instruction. -/

namespace Sys2Proof.Machine

/-- What an instruction does: its meaning, one per row of the opcode table. -/
def exec (i : Instr) (s : State) : Host.Outcome State Fault Refusal :=
  match i with
  | .idle => Sys2Proof.Machine.execIdle s
  | .hseEn => Sys2Proof.Machine.execHseEn s
  | .hseWait => Sys2Proof.Machine.execHseWait s
  | .pllCfg => Sys2Proof.Machine.execPllCfg s
  | .pllEn => Sys2Proof.Machine.execPllEn s
  | .pllWait => Sys2Proof.Machine.execPllWait s
  | .flashWs => Sys2Proof.Machine.execFlashWs s
  | .prescPre => Sys2Proof.Machine.execPrescPre s
  | .swSet => Sys2Proof.Machine.execSwSet s
  | .swWait => Sys2Proof.Machine.execSwWait s
  | .prescPost => Sys2Proof.Machine.execPrescPost s
  | .emit => Sys2Proof.Machine.execEmit s
  | .done => Sys2Proof.Machine.execDone s
  | .failed => Sys2Proof.Machine.execFailed s
  | .rsvd14 => Sys2Proof.Machine.execRsvd14 s
  | .rsvd15 => Sys2Proof.Machine.execRsvd15 s
  | .rdreg o => Sys2Proof.Machine.execRdreg o s
  | .wrplan r v => Sys2Proof.Machine.execWrplan r v s
  | .start => Sys2Proof.Machine.execStart s
  | .wrign o v => Sys2Proof.Machine.execWrign o v s
  | .commit p => Sys2Proof.Machine.execCommit p s

end Sys2Proof.Machine
end

