-- ==== Sys2Proof/Machine/Environment.lean ====
section
/-! DEFINITION. The transitions of the clock tree (spec file 44). One drawn while it is not enabled changes nothing (log 2). -/

namespace Sys2Proof.Machine

/-- When a transition is enabled (rules R160 to R162). -/
def envEnabled (e : EnvEvent) (s : State) : Bool :=
  match e with
  | .hseRdy => s.cr.hseon && !s.cr.hserdy
  | .pllRdy => s.cr.pllon && !s.cr.pllrdy
  | .switch => s.cfgr.sws != s.cfgr.sw

/-- The effect of an enabled transition (rules R160 to R162). -/
def envEffect (e : EnvEvent) (s : State) : State :=
  match e with
  | .hseRdy => { s with cr.hserdy := true }
  | .pllRdy => { s with cr.pllrdy := true }
  | .switch => { s with cfgr.sws := s.cfgr.sw }

/-- One step of the environment. -/
def envStep (e : EnvEvent) (s : State) : State := if envEnabled e s then envEffect e s else s

end Sys2Proof.Machine
end

