-- ==== Sys2Proof/Machine/Agents.lean ====
section
/-! DEFINITION. The interleaving of the three agents (rules R5, R67, R165, R166): which move is made, and what it does. -/

namespace Sys2Proof.Machine

/-- The next move and the state without it: the schedule's first entry, or, where nothing is scheduled, a free value (U9). -/
def draw (s : State) : Move × State :=
  match s.schedule with
  | m :: ms => (m, { s with schedule := ms })
  | [] => (Config.freeMove s.draws, { s with draws := s.draws + 1 })

/-- What a move does: the sequencer runs the micro-operation `STATE` names (rule R5); the host's transaction is decoded and run
or, where rule R62 does not admit it, refused; a `COMMIT` is begun, or its next command issued (rule R104); the clock tree steps;
reset acts unless a commit is running (rule R200, U4). -/
def applyMove (m : Move) (s : State) : Result :=
  match m with
  | .seq => exec (decodeUop s.status.state) s
  | .host t =>
    match decodeHost t with
    | .ok i => exec i s
    | .error e => .refused (.hostAccess e)
  | .commit p => exec (.commit p) s
  | .hostNext => .next (hostNext Config.params s)
  | .env e => .next (envStep e s)
  | .reset => if committing s then .refused .resetDuringCommit else .next (resetBlock Config.params s)

/-- The state in which the next move is the instruction whose bits are `w`, numbered as the opcode table numbers them: a `UOP`
is put into `STATE` and the sequencer scheduled, a `HOST` transaction is scheduled as the host's move, and a `PLAN` as the eight
host steps of its `COMMIT`, no other one under way (logs 3 and 11). -/
def placeInstruction (s : State) (nbits w : Nat) : State :=
  match formatOfWidth nbits with
  | some .uop => { s with status.state := BitVec.ofNat 4 w, schedule := .seq :: s.schedule }
  | some .host => { s with schedule := .host (unpackTransaction (BitVec.ofNat 40 w)) :: s.schedule }
  | some .plan =>
    { s with hostProgram := [], schedule := .commit (planOfNat w) :: (List.replicate 7 .hostNext ++ s.schedule) }
  | none => s

end Sys2Proof.Machine
end

