-- ==== Sys2Proof/Machine/Step.lean ====
section
/-! DEFINITION. One step of the machine: one atomic step of one agent (rules R5, R67). -/

namespace Sys2Proof.Machine

/-- One step: draw the next move and make it. -/
def step (s : State) : Host.Outcome State Fault Refusal := applyMove (draw s).1 (draw s).2

/-- The state in which `step` runs exactly the instruction whose bits are `w`. -/
def State.withFetchWord (s : State) (nbits w : Nat) : State := placeInstruction s nbits w

end Sys2Proof.Machine
end

