-- ==== Sys2Proof/Machine/Frequency.lean ====
section
/-! DEFINITION. The frequency arithmetic and the plan premise (rules R11 to R15), and the code-to-ratio tables (rule R35). None of
it is a circuit of the block: no instruction calls it; claims are stated with it. -/

namespace Sys2Proof.Machine

/-! ## Checked arithmetic (rules R11 to R13) -/

/-- The two errors of the frequency arithmetic (rules R12, R13, R173). -/
inductive FreqError where
  | arithmeticOverflow | nonIntegerDivision
  deriving DecidableEq, Repr

/-- `checked_mul(f, k)`: the exact product, an overflow at 2^32 (rule R12). -/
def checkedMul (f k : Nat) : Except FreqError Nat :=
  if 2 ^ 32 ≤ f * k then .error .arithmeticOverflow else .ok (f * k)

/-- `checked_div(f, d)`: the exact quotient, an error unless `d` divides `f` (rule R13). -/
def checkedDiv (f d : Nat) : Except FreqError Nat :=
  if f % d ≠ 0 then .error .nonIntegerDivision else .ok (f / d)

/-- Division by a ratio `n/m`: `checked_div(checked_mul(f, m), n)` (rule R13). -/
def checkedDivRatio (f n m : Nat) : Except FreqError Nat := (checkedMul f m).bind fun g => checkedDiv g n

/-! ## Code to ratio (rule R35) -/

/-- `hdiv`: the AHB divider of a code. -/
def hdiv (c : BitVec 4) : Nat :=
  match c.toNat with
  | 8 => 2
  | 9 => 4
  | 10 => 8
  | 11 => 16
  | 12 => 64
  | 13 => 128
  | 14 => 256
  | 15 => 512
  | _ => 1

/-- `pdiv`: the APB divider of a code. -/
def pdiv (c : BitVec 3) : Nat :=
  match c.toNat with
  | 4 => 2
  | 5 => 4
  | 6 => 8
  | 7 => 16
  | _ => 1

/-- `pllmul`: the multiplier of a code; `0b1111` is ×16 like `0b1110`. -/
def pllmul (c : BitVec 4) : Nat := if c.toNat = 15 then 16 else c.toNat + 2

/-- `plldiv`: the PLL input divider of a code. -/
def plldiv (c : Bool) : Nat := if c then 2 else 1

/-- `usbdiv` as a ratio numerator/denominator: 3/2 for code 0, 1/1 for code 1. -/
def usbdivNum (c : Bool) : Nat := if c then 1 else 3
/-- The denominator of `usbdiv`. -/
def usbdivDen (c : Bool) : Nat := if c then 1 else 2

/-! ## The validated plan (rule R14) -/

/-- `f_root`: the frequency of the root oscillator, external when the plan selects the external oscillator (clause 1). -/
def rootFreq (cfg : Config.Params) (p : Plan) : Nat := if p.extSelected then cfg.fExt else cfg.fInt

/-- The least wait-state tier whose ceiling covers `f`, if any (clause 7). -/
def wsTier (cfg : Config.Params) (f : Nat) : Option Nat := cfg.wsCeil.findIdx? fun c => decide (f ≤ c)

/-- The PLL output of a plan: the root divided, then multiplied, both checked (clause 2). -/
def planPllFreq (cfg : Config.Params) (p : Plan) : Except FreqError Nat :=
  (checkedDiv (rootFreq cfg p) (plldiv p.plldiv)).bind fun g => checkedMul g (pllmul p.pllmul)

/-- `ValidPlan(P)` (rule R14), clause by clause. The block does not check it. -/
structure ValidPlan (cfg : Config.Params) (p : Plan) : Prop where
  /-- clause 2, PLL selected -/
  pll : p.pllSelected = true →
    planPllFreq cfg p = .ok p.f.pll.toNat ∧ pllmul p.pllmul ∈ cfg.pllmulSet ∧ p.f.pll.toNat ≤ cfg.maxSysclk
      ∧ p.f.sysclk = p.f.pll
  /-- clause 2, otherwise -/
  direct : p.pllSelected = false → p.f.sysclk.toNat = rootFreq cfg p ∧ p.f.pll = 0#32
  /-- clause 3 (for every source: conflict C8) -/
  sysclk_le : p.f.sysclk.toNat ≤ cfg.maxSysclk
  /-- clause 4 -/
  ahb : checkedDiv p.f.sysclk.toNat (hdiv p.hpre) = .ok p.f.ahb.toNat ∧ hdiv p.hpre ∈ cfg.hpreSet
    ∧ p.f.ahb.toNat ≤ cfg.maxAhb
  /-- clause 5 -/
  apb1 : checkedDiv p.f.ahb.toNat (pdiv p.ppre1) = .ok p.f.apb1.toNat ∧ pdiv p.ppre1 ∈ cfg.ppre1Set
    ∧ p.f.apb1.toNat ≤ cfg.maxApb1
  /-- clause 6 -/
  apb2 : checkedDiv p.f.ahb.toNat (pdiv p.ppre2) = .ok p.f.apb2.toNat ∧ pdiv p.ppre2 ∈ cfg.ppre2Set
    ∧ p.f.apb2.toNat ≤ cfg.maxApb2
  /-- clause 7 -/
  ws : wsTier cfg p.f.sysclk.toNat = some p.ws.toNat
  /-- clause 8, the variant requires a USB clock -/
  usb_required : cfg.usbRequired = true → p.usbEn = true
  /-- clause 8, the plan produces a USB clock -/
  usb_on : p.usbEn = true → cfg.hasUsbpre = true
    ∧ checkedDivRatio p.f.sysclk.toNat (usbdivNum p.usbpre) (usbdivDen p.usbpre) = .ok p.f.usb.toNat
    ∧ p.f.usb.toNat = Config.fUsb
  /-- clause 8, otherwise -/
  usb_off : p.usbEn = false → p.f.usb = 0#32

/-- A correct encoding of a plan (rules R82, R88, R205): reserved bits zero, no reserved source, and the fields of absent
features zero. -/
def correctlyEncoded (cfg : Config.Params) (p : Plan) : Bool :=
  p.reservedZero && p.src != 0b11#2 && (cfg.hasUsbpre || !p.usbpre) && (cfg.hasPlldiv || !p.plldiv)

end Sys2Proof.Machine
end

