-- ==== Sys2Proof/Machine/Observe.lean ====
section
/-! DEFINITION. The observation functions of rule R211: the clock frequencies a state implies, as rationals. They are not
registers and no instruction reads them. -/

namespace Sys2Proof.Machine

/-- The PLL's input frequency (rule R211). -/
def fPllin (cfg : Config.Params) (s : State) : ℚ := if s.cfgr.pllsrc then (cfg.fExt : ℚ) else (cfg.fInt : ℚ)

/-- The PLL's output frequency (rule R211). -/
def fPll (cfg : Config.Params) (s : State) : ℚ :=
  fPllin cfg s / (plldiv (wirePlldiv cfg s.cfgr.pllxtpre) : ℚ) * (pllmul s.cfgr.pllmul : ℚ)

/-- The frequency of clock source `c` (rule R211); the reserved code `0b11` has a free value (U7). -/
def fSrc (cfg : Config.Params) (s : State) (c : BitVec 2) : ℚ :=
  if c = 0b00#2 then (cfg.fInt : ℚ)
  else if c = 0b01#2 then (cfg.fExt : ℚ)
  else if c = 0b10#2 then fPll cfg s
  else ((Config.reservedSrcFreq (cfgrWord cfg s.cfgr) : ℚ≥0) : ℚ)

/-- SYSCLK: the active source is what `SWS` reports (rule R211). -/
def sysclk (cfg : Config.Params) (s : State) : ℚ := fSrc cfg s s.cfgr.sws

/-- The AHB frequency (rule R211). -/
def ahb (cfg : Config.Params) (s : State) : ℚ := sysclk cfg s / (hdiv s.cfgr.hpre : ℚ)

/-- The APB1 frequency (rule R211). -/
def apb1 (cfg : Config.Params) (s : State) : ℚ := ahb cfg s / (pdiv s.cfgr.ppre1 : ℚ)

/-- The APB2 frequency (rule R211). -/
def apb2 (cfg : Config.Params) (s : State) : ℚ := ahb cfg s / (pdiv s.cfgr.ppre2 : ℚ)

/-- The USB frequency (rule R211). -/
def usb (cfg : Config.Params) (s : State) : ℚ :=
  sysclk cfg s / ((usbdivNum (wireUsbpre cfg s.cfgr.usbpre) : ℚ) / (usbdivDen (wireUsbpre cfg s.cfgr.usbpre) : ℚ))

end Sys2Proof.Machine
end

