-- ==== Sys2Proof/Safety.lean ====
section
/-! DEFINITION. What counts as a safe run, in the terms claims use: `Safe` (rule R211), the launch premises (rule R205), the run
invariant (rules R116, R154, R175, R212, R213), runs over a list of moves, and the step bound (rule R155). -/

namespace Sys2Proof.Machine

/-! ## Safe states (rule R211) -/

/-- `Safe(s)`: SYSCLK within the ceiling of the wait states programmed, and every bus within its maximum. A `LATENCY` beyond
the table has no ceiling and is not safe. -/
def Safe (cfg : Config.Params) (s : State) : Prop :=
  (∃ c, cfg.wsCeil[s.acr.latency.toNat]? = some c ∧ sysclk cfg s ≤ (c : ℚ))
  ∧ sysclk cfg s ≤ (cfg.maxSysclk : ℚ) ∧ ahb cfg s ≤ (cfg.maxAhb : ℚ) ∧ apb1 cfg s ≤ (cfg.maxApb1 : ℚ)
  ∧ apb2 cfg s ≤ (cfg.maxApb2 : ℚ)

/-! ## Launch premises (rule R205)

`ParamsOk` is carried by `Config.Params`; `EnvOk` holds of `envStep` by its definition; `HostOk` by that of `applyMove`, which
refuses every other host access and a reset during a commit. -/

/-- `CleanReset(s)`: every register at its reset value (rule R40). -/
def CleanReset (s : State) : Prop := s = resetBlock Config.params s

/-- A commit has been accepted: `START_PEND = 1`, or `STATE` has left `IDLE` (rules R21, R101). -/
def committed (s : State) : Bool := s.status.startPend || s.status.state != Code.idle

/-! ## Stages of a commit

Codes 0 to 11 are in step order, 12 is `DONE`, 13 is `FAILED` (rules R81, R87). -/

/-- The number of the micro-operation `STATE` names. -/
def stage (s : State) : Nat := s.status.state.toNat

/-- `FLASH_WS` has not been executed: before or at code 6, or failed with error 1 or 2 (rules R116, R175). -/
def beforeFlash (s : State) : Prop := stage s ≤ 6 ∨ (stage s = 13 ∧ s.status.err ≠ errCode .clockSwitch)

/-- `SW_SET` has been executed: code 9 to 12, or failed with error 3 (rules R133, R175). -/
def afterSwSet (s : State) : Prop := (9 ≤ stage s ∧ stage s ≤ 12) ∨ (stage s = 13 ∧ s.status.err = errCode .clockSwitch)

/-- The prescalers have been written: in dividers-first order from code 8 on, in switch-first order from `EMIT` on (rules R131,
R132, R135, R175). -/
def prescalersWritten (s : State) : Prop :=
  stage s = 11 ∨ stage s = 12
  ∨ (raiseFirst s = true ∧ (8 ≤ stage s ∧ stage s ≤ 9 ∨ stage s = 13 ∧ s.status.err = errCode .clockSwitch))

/-- The four prescaler fields are the reset ones: every divider 1 (rule R40). -/
def PrescalersReset (s : State) : Prop :=
  s.cfgr.hpre = 0#4 ∧ s.cfgr.ppre1 = 0#3 ∧ s.cfgr.ppre2 = 0#3 ∧ s.cfgr.usbpre = false

/-- The four prescaler fields are the plan's. -/
def PrescalersPlan (s : State) : Prop :=
  s.cfgr.hpre = s.plan.hpre ∧ s.cfgr.ppre1 = s.plan.ppre1 ∧ s.cfgr.ppre2 = s.plan.ppre2 ∧ s.cfgr.usbpre = s.plan.usbpre

/-- The three PLL parameter fields are the reset ones. -/
def PllParamsReset (s : State) : Prop := s.cfgr.pllsrc = false ∧ s.cfgr.pllxtpre = false ∧ s.cfgr.pllmul = 0#4

/-- The three PLL parameter fields are the plan's. -/
def PllParamsPlan (s : State) : Prop :=
  s.cfgr.pllsrc = s.plan.pllin ∧ s.cfgr.pllxtpre = s.plan.plldiv ∧ s.cfgr.pllmul = s.plan.pllmul

/-- The record is empty and not valid (rules R154, R215). -/
def RecordEmpty (s : State) : Prop :=
  s.fc = { sysclk := 0#32, ahb := 0#32, apb1 := 0#32, apb2 := 0#32, pll := 0#32, usb := 0#32 }
  ∧ s.status.fcValid = false ∧ s.status.fcPllValid = false ∧ s.status.fcUsbValid = false

/-- The record is the plan's (rules R150, R154). -/
def RecordPlan (s : State) : Prop :=
  s.fc = s.plan.f ∧ s.status.fcValid = true ∧ s.status.fcPllValid = s.plan.pllSelected
  ∧ s.status.fcUsbValid = s.plan.usbEn

/-! ## The run invariant -/

/-- What holds in every state of every run from reset: the eight invariants of rule R213 (7, a property of two states, apart),
what `CNT` counts (rules R31, R172), what each stage of a commit has and has not written (rules R116, R154, R175), and what is known
at each stage. What it says of `SWS`, `HSERDY` and `PLLRDY` after the poll that saw them rests on rule R164, which the spec assumes
and the model builds into its transitions (log 17, unsafe). -/
structure RunInv (cfg : Config.Params) (s : State) : Prop where
  /-- the reserved codes are unreachable (rule R153) -/
  no_reserved : stage s ≤ 13
  /-- only `IDLE` has a start pending (rule R110) -/
  pend_idle : s.status.startPend = true → s.status.state = Code.idle
  /-- a committed plan passed `wf` (rule R101) -/
  plan_wf : committed s = true → planWf cfg s.plan = true
  /-- R213.1 -/
  cnt_bound : s.cnt.toNat < max cfg.nOsc (max cfg.nPll cfg.nSw)
  /-- `CNT` is the reset value until `HSE_EN` has run (rules R31, R40) -/
  cnt_reset : stage s ≤ 1 → s.cnt = 0#32
  /-- in a wait fewer polls than its bound have failed (rules R31, R112) -/
  osc_polls : stage s = 2 → s.cnt.toNat < cfg.nOsc
  /-- rules R31, R115 -/
  pll_polls : stage s = 5 → s.cnt.toNat < cfg.nPll
  /-- rules R31, R134 -/
  sw_polls : stage s = 9 → s.cnt.toNat < cfg.nSw
  /-- a timeout leaves `CNT` at `N - 1` (rules R31, R172) -/
  osc_count : s.status.err = errCode .oscillatorStartup → s.cnt.toNat + 1 = cfg.nOsc
  /-- rules R31, R172 -/
  pll_count : s.status.err = errCode .pllLock → s.cnt.toNat + 1 = cfg.nPll
  /-- rules R31, R172 -/
  sw_count : s.status.err = errCode .clockSwitch → s.cnt.toNat + 1 = cfg.nSw
  /-- R213.2 -/
  valid_iff_done : s.status.fcValid = true ↔ s.status.state = Code.done
  /-- R213.2 -/
  err_iff_failed : s.status.err ≠ 0#2 ↔ s.status.state = Code.failed
  /-- R213.3 -/
  pllon_params : s.cr.pllon = true → PllParamsPlan s
  /-- R213.4 -/
  hserdy_hseon : s.cr.hserdy = true → s.cr.hseon = true
  /-- R213.4 -/
  pllrdy_pllon : s.cr.pllrdy = true → s.cr.pllon = true
  /-- R213.5 -/
  switched : s.cfgr.sws ≠ 0b00#2 → afterSwSet s ∧ s.cfgr.sws = s.plan.src
  /-- R213.6: the request is the internal oscillator until `SW_SET`, the plan's source from then on -/
  sw_before : ¬ afterSwSet s → s.cfgr.sw = 0b00#2
  /-- R213.6 -/
  sw_after : afterSwSet s → s.cfgr.sw = s.plan.src
  /-- R213.8 -/
  ext_active_ready : s.cfgr.sws = 0b01#2 → s.cr.hserdy = true
  /-- R213.8 -/
  pll_active_ready : s.cfgr.sws = 0b10#2 → s.cr.pllrdy = true
  /-- the external oscillator is started only for a plan that selects it, from `HSE_EN` on (rules R110, R111, R175) -/
  hseon_iff : s.cr.hseon = true ↔ committed s = true ∧ s.plan.extSelected = true ∧ 2 ≤ stage s
  /-- its mode bit is written with the enable (rule R111) -/
  hsebyp_plan : s.cr.hsebyp = (s.cr.hseon && s.plan.hsebyp)
  /-- codes 1 and 2 run only for a plan that selects the external oscillator (rule R110) -/
  hse_selected : 1 ≤ stage s → stage s ≤ 2 → s.plan.extSelected = true
  /-- and only such a plan fails with error 1 (rules R112, R175) -/
  osc_error : s.status.err = errCode .oscillatorStartup → s.plan.extSelected = true
  /-- codes 3 to 5 run only for a plan that selects the PLL (rules R110, R112) -/
  pll_selected : 3 ≤ stage s → stage s ≤ 5 → s.plan.pllSelected = true
  /-- past `HSE_WAIT` a selected external oscillator has been seen ready (rules R112, R114, R133) -/
  hse_ready : 3 ≤ stage s → s.status.err ≠ errCode .oscillatorStartup → s.plan.extSelected = true → s.cr.hserdy = true
  /-- past `PLL_WAIT` a selected PLL has been seen ready (rules R115, R133) -/
  pll_ready : ¬ (stage s ≤ 5) → s.status.err ≠ errCode .oscillatorStartup → s.status.err ≠ errCode .pllLock →
    s.plan.pllSelected = true → s.cr.pllrdy = true
  /-- the PLL is off until `PLL_EN` (rules R113, R208) -/
  pll_off : stage s ≤ 4 → s.cr.pllon = false
  /-- the PLL is on in `PLL_WAIT`, and after error 2 (rules R114, R175) -/
  pll_on : stage s = 5 ∨ s.status.err = errCode .pllLock → s.cr.pllon = true
  /-- error 1 leaves the PLL off; a plan that does not select it never starts it (rules R110, R175) -/
  pll_unused : s.plan.pllSelected = false ∨ s.status.err = errCode .oscillatorStartup → s.cr.pllon = false
  /-- the PLL parameters are the plan's from `PLL_EN` on (rule R113) -/
  params_written : stage s = 4 → PllParamsPlan s
  /-- and the reset ones as long as `PLL_CFG` has not run (rules R110, R175) -/
  params_reset : stage s ≤ 3 ∨ s.plan.pllSelected = false ∨ s.status.err = errCode .oscillatorStartup → PllParamsReset s
  /-- the wait states are the reset ones before `FLASH_WS` (rules R116, R175) -/
  latency_before : beforeFlash s → s.acr.latency = 0#3
  /-- and the plan's after it (rules R130, R154, R175) -/
  latency_after : ¬ beforeFlash s → s.acr.latency = s.plan.ws
  /-- `PRESC_PRE` runs only in dividers-first order (rule R131) -/
  pre_raising : stage s = 7 → raiseFirst s = true
  /-- `PRESC_POST` runs only in switch-first order (rule R131) -/
  post_lowering : stage s = 10 → raiseFirst s = false
  /-- the prescalers are the plan's once written (rules R132, R135, R154, R175) -/
  prescalers_after : prescalersWritten s → PrescalersPlan s
  /-- and the reset ones before (rules R116, R175) -/
  prescalers_before : ¬ prescalersWritten s → PrescalersReset s
  /-- the switch is confirmed from `PRESC_POST` on (rule R134; R154 gives it at the confirming poll, R164, assumed, afterwards: log
  17) -/
  confirmed : 10 ≤ stage s → stage s ≤ 12 → s.cfgr.sws = s.plan.src
  /-- `CUR_SYSCLK` is the reset frequency until `EMIT` (rules R32, R40) -/
  cur_before : s.status.state ≠ Code.done → s.curSysclk = BitVec.ofNat 32 cfg.fInt
  /-- and the plan's in `DONE` (rule R150) -/
  cur_after : s.status.state = Code.done → s.curSysclk = s.plan.f.sysclk
  /-- no record before `DONE` (rules R154, R215) -/
  record_before : s.status.state ≠ Code.done → RecordEmpty s
  /-- the plan's record in `DONE` (rules R150, R154) -/
  record_after : s.status.state = Code.done → RecordPlan s

/-! ## Who writes what (rule R20) -/

/-- The column "written by" of rule R20 for the instructions: the registers an instruction may change. `CTRL` stores nothing
(rule R29). -/
def mayWrite (i : Instr) (r : Reg) : Bool :=
  match r with
  | .cr => i == .hseEn || i == .pllEn
  | .cfgr => i == .pllCfg || i == .prescPre || i == .prescPost || i == .swSet
  | .acr => i == .flashWs
  | .ctrl => false
  | .status => formatOf i == .uop || i == .start || formatOf i == .plan
  | .cnt => i == .hseEn || i == .hseWait || i == .pllEn || i == .pllWait || i == .swSet || i == .swWait
  | .curSysclk => i == .emit
  | .plan q =>
    match i with
    | .wrplan q' _ => q == q'
    | .commit _ => true
    | _ => false
  | .fc _ => i == .emit

/-! ## Runs and their length (rule R155) -/

/-- The moves of a list, one after the other, stopping at the first fault or refusal. -/
def runMoves : List Move → State → Result
  | [], s => .next s
  | m :: ms, s =>
    match applyMove m s with
    | .next t => runMoves ms t
    | .fault r => .fault r
    | .refused r => .refused r

/-- How many sequencer steps a list of moves holds. -/
def seqCount (ms : List Move) : Nat := (ms.filter fun m => decide (m = Move.seq)).length

/-- The move of the *eager* schedule: every environment transition fires as soon as it is enabled (rule R166). -/
def eagerMove (s : State) : Move :=
  if envEnabled .hseRdy s then .env .hseRdy
  else if envEnabled .pllRdy s then .env .pllRdy
  else if envEnabled .switch s then .env .switch
  else .seq

/-- `n` moves of the eager schedule (rule R166). -/
def eagerRun : Nat → State → Result
  | 0, s => .next s
  | n + 1, s =>
    match applyMove (eagerMove s) s with
    | .next t => eagerRun n t
    | .fault r => .fault r
    | .refused r => .refused r

/-- `B`: the step bound of rule R155. -/
def stepBound (cfg : Config.Params) : Nat := 1 + (1 + cfg.nOsc) + (2 + cfg.nPll) + (3 + cfg.nSw) + 1

/-- How many sequencer steps are left, at most, before `DONE` or `FAILED` (rule R155): the steps of the states still ahead on the
longest path, each wait counted by the polls it has left. -/
def stepsLeft (cfg : Config.Params) (s : State) : Nat :=
  let tail := if raiseFirst s then 1 else 2
  match stage s with
  | 0 => stepBound cfg
  | 1 => 1 + cfg.nOsc + 2 + cfg.nPll + 4 + cfg.nSw
  | 2 => max 1 (cfg.nOsc - s.cnt.toNat) + 2 + cfg.nPll + 4 + cfg.nSw
  | 3 => 2 + cfg.nPll + 4 + cfg.nSw
  | 4 => 1 + cfg.nPll + 4 + cfg.nSw
  | 5 => max 1 (cfg.nPll - s.cnt.toNat) + 4 + cfg.nSw
  | 6 => 4 + cfg.nSw
  | 7 => 2 + cfg.nSw + tail
  | 8 => 1 + cfg.nSw + tail
  | 9 => max 1 (cfg.nSw - s.cnt.toNat) + tail
  | 10 => 2
  | 11 => 1
  | 12 => 0
  | 13 => 0
  | _ => 1

end Sys2Proof.Machine
end

