-- ==== Sys2Proof/Certificates/Slice0/Obligations.lean ====
section
/-! DEFINITION. The statements for the provers, from the numbered rules of spec/. Codes and offsets are written as numbers, from
rules R81 and R60, so that a statement can be held against the spec without the model's tables. -/

open Sys2Proof Sys2Proof.Machine

/-! ## Encoding -/

/-- Words written out from rules R81, R82, R84 and the encodings of program P1 decode to the instructions they stand for. THE
MODEL'S CHOICES in it: a plan as one number of 224 bits, word 0 lowest, a width the opcode table does not have (logs 3 and 21), and
the rejection of a plan word with a reserved bit (log 20). -/
def Obligations.SpecWordsDecode : Prop :=
  (List.range 16).map (fun c => decodeTableWord 4 c)
      = [some .idle, some .hseEn, some .hseWait, some .pllCfg, some .pllEn, some .pllWait, some .flashWs, some .prescPre,
          some .swSet, some .swWait, some .prescPost, some .emit, some .done, some .failed, some .rsvd14, some .rsvd15]
  ∧ decodeTableWord 40 0x4800000000 = some (.rdreg 18#5)
  ∧ decodeTableWord 40 0xA4044AA200 = some (.wrplan (.freq .sysclk) 72000000#32)
  ∧ decodeTableWord 40 0x9000000001 = some .start
  ∧ decodeTableWord 40 0x90FFFFFFFF = some .start
  ∧ decodeTableWord 40 0x90FFFFFFFE = some (.wrign 4#5 0xFFFFFFFE#32)
  ∧ decodeTableWord 40 0x8400000002 = some (.wrign 1#5 2#32)
  ∧ decodeTableWord 40 0xBC00000000 = some (.wrign 15#5 0#32)
  ∧ decodeTableWord 40 0x0200000000 = none
  ∧ decodeTableWord 224 0x02DC6C00044AA200044AA20002255100044AA200044AA200049C0402
      = some (.commit
          { cfg := 0x049C0402#32
            f := { sysclk := 72000000#32, ahb := 72000000#32, apb1 := 36000000#32, apb2 := 72000000#32, pll := 72000000#32,
                   usb := 48000000#32 } })
  ∧ decodeTableWord 32 0x10000001 = none

/-- TIER 3 (a). Decoding the encoding of a well-formed instruction gives it back, every operand at every value. -/
def Obligations.DecodeEncodeAgree : Prop :=
  ∀ i : Instr, i.wellFormed = true → decode (formatOf i) (encode i) = .ok i

/-- Whatever the decoder accepts is well-formed and of the format it was read in. -/
def Obligations.DecodedInstructionsAreWellFormed : Prop :=
  ∀ (f : Format) (bytes : List Byte) (i : Instr), decode f bytes = .ok i → i.wellFormed = true ∧ formatOf i = f

/-- The other direction, where the spec ignores no bit: a `UOP` byte, the seven words of a `PLAN`, a `WRPLAN` and a `WRIGN` are
the encoding of what they decode to. (`RDREG` ignores its data bits and `START` its bits 31:1, rules R84, R102.) -/
def Obligations.EncodeDecodeAgree : Prop :=
  ∀ (f : Format) (bytes : List Byte) (i : Instr),
    decode f bytes = .ok i → i ≠ .start → (∀ o, i ≠ .rdreg o) → encode i = bytes

/-- Rule R62: the only admitted host access is 32 bits at an offset that is a multiple of 4 below 0x80; every other one is
refused, with no next state, in every state. -/
def Obligations.OnlyAlignedWordAccessesAreAdmitted : Prop :=
  ∀ (t : Transaction) (s : State),
    (t.width = 4 ∧ t.off % 4 = 0 ∧ t.off < 0x80 → ∃ i, decodeHost t = .ok i ∧ applyMove (.host t) s = exec i s)
    ∧ (¬ (t.width = 4 ∧ t.off % 4 = 0 ∧ t.off < 0x80) → ∃ e, applyMove (.host t) s = .refused (.hostAccess e))

/-! ## The step -/

/-- A step makes the move at the head of the schedule, whichever it is (or, where nothing is scheduled, the free one: the model's
choice, log 1), and the sequencer's move runs the micro-operation `STATE` names, the host's move the command its transaction decodes
to; a transaction that is not admitted is refused. A host move within a `COMMIT` issues that `COMMIT`'s next command (log 11). -/
def Obligations.StepRunsTheDecodedInstruction : Prop :=
  ∀ s : State,
    (∀ m ms, s.schedule = m :: ms → step s = applyMove m { s with schedule := ms })
    ∧ (∀ ms, s.schedule = .seq :: ms → step s = exec (decodeUop s.status.state) { s with schedule := ms })
    ∧ (∀ t ms i, s.schedule = .host t :: ms → decodeHost t = .ok i → step s = exec i { s with schedule := ms })
    ∧ (∀ t ms e, s.schedule = .host t :: ms → decodeHost t = .error e → step s = .refused (.hostAccess e))
    ∧ (∀ p ms, s.schedule = .commit p :: ms → step s = exec (.commit p) { s with schedule := ms })
    ∧ (∀ r v cs ms, s.schedule = .hostNext :: ms → s.hostProgram = .write r v :: cs →
        step s = exec (.wrplan r v) { s with schedule := ms, hostProgram := cs })
    ∧ (∀ cs ms, s.schedule = .hostNext :: ms → s.hostProgram = .start :: cs →
        step s = exec .start { s with schedule := ms, hostProgram := cs })
    ∧ (∀ ms, s.schedule = .hostNext :: ms → s.hostProgram = [] → step s = .next { s with schedule := ms })
    ∧ (∀ e ms, s.schedule = .env e :: ms → step s = .next (envStep e { s with schedule := ms }))
    ∧ (s.schedule = [] → step s = applyMove (Config.freeMove s.draws) { s with draws := s.draws + 1 })

/-- Placing an instruction for the next step: if bits numbered as the opcode table numbers them decode to `i`, the next step
after `withFetchWord` runs `i` (a micro-operation in the state that `STATE` then names; a `COMMIT` with its seven further host steps
scheduled and no other `COMMIT` under way: the model's choice, log 3). -/
def Obligations.PlacedInstructionIsTheNextStep : Prop :=
  ∀ (nbits w : Nat) (i : Instr) (s : State),
    decodeTableWord nbits w = some i →
    step (s.withFetchWord nbits w)
      = exec i
          (match formatOf i with
          | .uop => { s with status.state := BitVec.ofNat 4 w }
          | .host => s
          | .plan => { s with hostProgram := [], schedule := List.replicate 7 .hostNext ++ s.schedule })

/-! ## Micro-operations of steps 1 and 2 -/

/-- Rule R110: `IDLE`. -/
def Obligations.IdleWaitsThenDispatches : Prop :=
  ∀ s : State,
    exec .idle s = .next
      (if s.status.startPend = false then s
       else if s.plan.cfg.extractLsb' 0 2 = 0b01#2 ∨ (s.plan.cfg.extractLsb' 0 2 = 0b10#2 ∧ s.plan.cfg.getLsbD 16 = true) then
         { s with status.startPend := false, status.state := 1#4 }
       else if s.plan.cfg.extractLsb' 0 2 = 0b10#2 then { s with status.startPend := false, status.state := 3#4 }
       else { s with status.startPend := false, status.state := 6#4 })

/-- Rule R111: `HSE_EN`. -/
def Obligations.HseEnEnablesTheOscillator : Prop :=
  ∀ s : State,
    exec .hseEn s
      = .next { s with cr.hsebyp := s.plan.cfg.getLsbD 24, cr.hseon := true, cnt := 0#32, status.state := 2#4 }

/-- Rule R112: `HSE_WAIT`, the flag before the bound. -/
def Obligations.HseWaitPollsTheReadyFlag : Prop :=
  ∀ s : State,
    exec .hseWait s = .next
      (if s.cr.hserdy = true then
         { s with status.state := if s.plan.cfg.extractLsb' 0 2 = 0b10#2 then 3#4 else 6#4 }
       else if s.cnt.toNat + 1 ≥ Config.params.nOsc then { s with status.err := 1#2, status.state := 13#4 }
       else { s with cnt := BitVec.ofNat 32 (s.cnt.toNat + 1) })

/-- Rule R113: `PLL_CFG` with the PLL disabled programs the three parameter fields (`PLLXTPRE` is hardwired 0 where the variant
has no PLL input division, rule R27); with the PLL running it is the fault U1. -/
def Obligations.PllCfgProgramsTheParameters : Prop :=
  ∀ s : State,
    (s.cr.pllon = false →
      exec .pllCfg s = .next
        { s with
          cfgr.pllsrc := s.plan.cfg.getLsbD 16
          cfgr.pllxtpre := if Config.params.hasPlldiv = true then s.plan.cfg.getLsbD 17 else false
          cfgr.pllmul := s.plan.cfg.extractLsb' 18 4
          status.state := 4#4 })
    ∧ (s.cr.pllon = true → exec .pllCfg s = .fault .pllParamsWhileRunning)

/-- The fault U1 is the only one of the machine: it is `PLL_CFG` with the PLL running (rule R113 (a)), and no other instruction and
no other state faults. -/
def Obligations.OnlyPllCfgWithThePllRunningFaults : Prop :=
  ∀ (i : Instr) (s : State) (r : Fault),
    exec i s = .fault r ↔ i = .pllCfg ∧ s.cr.pllon = true ∧ r = .pllParamsWhileRunning

/-- Rule R114: `PLL_EN`. -/
def Obligations.PllEnEnablesThePll : Prop :=
  ∀ s : State, exec .pllEn s = .next { s with cr.pllon := true, cnt := 0#32, status.state := 5#4 }

/-- Rule R115: `PLL_WAIT`. -/
def Obligations.PllWaitPollsTheLockFlag : Prop :=
  ∀ s : State,
    exec .pllWait s = .next
      (if s.cr.pllrdy = true then { s with status.state := 6#4 }
       else if s.cnt.toNat + 1 ≥ Config.params.nPll then { s with status.err := 2#2, status.state := 13#4 }
       else { s with cnt := BitVec.ofNat 32 (s.cnt.toNat + 1) })

/-! ## Micro-operations of steps 3 to 5 -/

/-- Rule R130: `FLASH_WS` writes the wait states and chooses the order of steps 4 and 5 by comparing SYSCLK, equality counted as
raising. -/
def Obligations.FlashWsProgramsTheWaitStates : Prop :=
  ∀ s : State,
    exec .flashWs s = .next
      { s with
        acr.latency := s.plan.cfg.extractLsb' 25 3
        status.state := if s.plan.f.sysclk.toNat ≥ s.curSysclk.toNat then 7#4 else 8#4 }

/-- Rules R132, R135: `PRESC_PRE` and `PRESC_POST` write the four prescaler fields in one step and differ in their successor only;
`USBPRE` is hardwired 0 where the variant has no USB prescaler (rule R27). -/
def Obligations.PrescalersAreWrittenTogether : Prop :=
  ∀ s : State,
    let written : State :=
      { s with
        cfgr.hpre := s.plan.cfg.extractLsb' 4 4
        cfgr.ppre1 := s.plan.cfg.extractLsb' 8 3
        cfgr.ppre2 := s.plan.cfg.extractLsb' 11 3
        cfgr.usbpre := if Config.params.hasUsbpre = true then s.plan.cfg.getLsbD 22 else false }
    exec .prescPre s = .next { written with status.state := 8#4 }
    ∧ exec .prescPost s = .next { written with status.state := 11#4 }

/-- Rule R133: `SW_SET`. -/
def Obligations.SwSetRequestsTheSwitch : Prop :=
  ∀ s : State,
    exec .swSet s = .next { s with cfgr.sw := s.plan.cfg.extractLsb' 0 2, cnt := 0#32, status.state := 9#4 }

/-- Rule R134: `SW_WAIT`. -/
def Obligations.SwWaitPollsTheMuxStatus : Prop :=
  ∀ s : State,
    exec .swWait s = .next
      (if s.cfgr.sws = s.plan.cfg.extractLsb' 0 2 then
         { s with status.state := if s.plan.f.sysclk.toNat ≥ s.curSysclk.toNat then 11#4 else 10#4 }
       else if s.cnt.toNat + 1 ≥ Config.params.nSw then { s with status.err := 3#2, status.state := 13#4 }
       else { s with cnt := BitVec.ofNat 32 (s.cnt.toNat + 1) })

/-! ## Step 6 and the terminal states -/

/-- Rule R150: `EMIT` copies the six frequencies, sets the validity flags and `CUR_SYSCLK`, and enters `DONE`, in one step. -/
def Obligations.EmitCreatesTheRecord : Prop :=
  ∀ s : State,
    exec .emit s = .next
      { s with
        fc :=
          { sysclk := s.plan.f.sysclk, ahb := s.plan.f.ahb, apb1 := s.plan.f.apb1, apb2 := s.plan.f.apb2, pll := s.plan.f.pll,
            usb := s.plan.f.usb }
        status.fcPllValid := decide (s.plan.cfg.extractLsb' 0 2 = 0b10#2)
        status.fcUsbValid := s.plan.cfg.getLsbD 23
        status.fcValid := true
        curSysclk := s.plan.f.sysclk
        status.state := 12#4 }

/-- Rules R151, R152, R153: `DONE` and `FAILED` change nothing; the reserved codes enter `FAILED` and change nothing else. -/
def Obligations.TerminalAndReservedCodes : Prop :=
  ∀ s : State,
    exec .done s = .next s ∧ exec .failed s = .next s
    ∧ exec .rsvd14 s = .next { s with status.state := 13#4 } ∧ exec .rsvd15 s = .next { s with status.state := 13#4 }

/-! ## Host commands -/

/-- Rule R100: `WRPLAN` stores all 32 bits while `STATE = IDLE` and `START_PEND = 0`, and changes nothing otherwise. After it the
register reads what was written, the other plan registers what they read before. -/
def Obligations.WrplanStoresWhileUnlocked : Prop :=
  ∀ (r : PlanReg) (v : Word) (s : State),
    (s.status.state = 0#4 → s.status.startPend = false →
      ∃ p, exec (.wrplan r v) s = .next { s with plan := p } ∧ p.get r = v ∧ ∀ q, q ≠ r → p.get q = s.plan.get q)
    ∧ (¬ (s.status.state = 0#4 ∧ s.status.startPend = false) → exec (.wrplan r v) s = .next s)

/-- Rules R88, R101: `START` is accepted iff the plan is unlocked and `wf`, clause by clause; it then sets `START_PEND` and nothing
else; a refused `START` changes nothing. -/
def Obligations.StartAcceptsExactlyWellFormedPlans : Prop :=
  ∀ s : State,
    exec .start s = .next
      (if s.status.state = 0#4 ∧ s.status.startPend = false
          ∧ s.plan.cfg &&& 0xF000C00C#32 = 0#32
          ∧ s.plan.cfg.extractLsb' 0 2 ≠ 0b11#2
          ∧ (s.plan.cfg.extractLsb' 25 3).toNat < Config.params.wsCeil.length
          ∧ (Config.params.hasUsbpre = true ∨ s.plan.cfg.getLsbD 22 = false ∧ s.plan.cfg.getLsbD 23 = false)
          ∧ (Config.params.hasPlldiv = true ∨ s.plan.cfg.getLsbD 17 = false)
          ∧ s.plan.f.sysclk ≠ 0#32 ∧ s.plan.f.ahb ≠ 0#32 ∧ s.plan.f.apb1 ≠ 0#32 ∧ s.plan.f.apb2 ≠ 0#32
          ∧ (s.plan.cfg.extractLsb' 0 2 ≠ 0b10#2 ∨ s.plan.f.pll ≠ 0#32)
          ∧ (s.plan.cfg.getLsbD 23 = false ∨ s.plan.f.usb ≠ 0#32)
       then { s with status.startPend := true } else s)

/-- Rules R60, R72, R102: `RDREG` gives the host the word of the map's register, 0 for `CTRL` and every unmapped word, and changes
no register. THE MODEL'S CHOICE in it: the host keeps the word in `hostRdata` (log 5). -/
def Obligations.RdregReturnsTheMappedWord : Prop :=
  ∀ (o : BitVec 5) (s : State),
    exec (.rdreg o) s = .next
      { s with
        hostRdata :=
          match 4 * o.toNat with
          | 0x00 => crWord s.cr
          | 0x04 => cfgrWord Config.params s.cfgr
          | 0x08 => acrWord s.acr
          | 0x14 => statusWord s.status
          | 0x18 => s.cnt
          | 0x1C => s.curSysclk
          | 0x20 => s.plan.cfg
          | 0x24 => s.plan.f.sysclk
          | 0x28 => s.plan.f.ahb
          | 0x2C => s.plan.f.apb1
          | 0x30 => s.plan.f.apb2
          | 0x34 => s.plan.f.pll
          | 0x38 => s.plan.f.usb
          | 0x40 => s.fc.sysclk
          | 0x44 => s.fc.ahb
          | 0x48 => s.fc.apb1
          | 0x4C => s.fc.apb2
          | 0x50 => s.fc.pll
          | 0x54 => s.fc.usb
          | _ => 0#32 }

/-- Rule R103: `WRIGN` changes nothing, in any state. -/
def Obligations.WrignChangesNothing : Prop :=
  ∀ (o : BitVec 5) (v : Word) (s : State), exec (.wrign o v) s = .next s

/-- Rules R5, R104: `COMMIT` is eight host steps, the seven `WRPLAN`s, words 0 to 6 in order, and a `START`. `exec (.commit p)` is
the first of them: from an unlocked state it stores word 0 and only that, from a locked one nothing, and it leaves the seven others
to come; each `hostNext` move issues the next (`StepRunsTheDecodedInstruction`). Whatever sequencer steps fall between the eight
(`IDLE` with `START_PEND = 0`: they do nothing), once the eighth is made all seven words stand in the plan registers, `START_PEND`
is 1 iff the plan is `wf`, and nothing else has changed; from a locked state the eight change nothing. THE MODEL'S CHOICE in it:
the commands to come are kept in `hostProgram`, and a `COMMIT` begun while another is under way comes after it (log 11). -/
def Obligations.CommitIsSevenWritesAndAStart : Prop :=
  ∀ (p : Plan) (s : State),
    let others : List CommitCommand :=
      [.write (.freq .sysclk) p.f.sysclk, .write (.freq .ahb) p.f.ahb, .write (.freq .apb1) p.f.apb1,
        .write (.freq .apb2) p.f.apb2, .write (.freq .pll) p.f.pll, .write (.freq .usb) p.f.usb, .start]
    (s.hostProgram = [] →
      exec (.commit p) s = .next
        (if s.status.state = 0#4 ∧ s.status.startPend = false then
           { s with plan := { s.plan with cfg := p.cfg }, hostProgram := others }
         else { s with hostProgram := others }))
    ∧ (∀ r v cs, s.hostProgram = .write r v :: cs →
        exec (.commit p) s = exec (.wrplan r v) { s with hostProgram := cs ++ .write .cfg p.cfg :: others })
    ∧ (∀ cs, s.hostProgram = .start :: cs →
        exec (.commit p) s = exec .start { s with hostProgram := cs ++ .write .cfg p.cfg :: others })
    ∧ (s.hostProgram = [] → s.status.state = 0#4 → s.status.startPend = false → ∀ ms : List Move,
        ms.filter (fun m => decide (m ≠ .seq)) = List.replicate 7 .hostNext → ms.getLast? = some .hostNext →
        runMoves (.commit p :: ms) s = .next { s with plan := p, status.startPend := planWf Config.params p })
    ∧ (s.hostProgram = [] → ¬ (s.status.state = 0#4 ∧ s.status.startPend = false) →
        runMoves (.commit p :: List.replicate 7 .hostNext) s = .next s)

/-! ## Register words -/

/-- Rules R26, R28, R30: the fields of `CR`, `ACR` and `STATUS` stand at their bits and every reserved bit reads 0; `BUSY` is 1
exactly when `STATE` is none of `IDLE`, `DONE`, `FAILED`. -/
def Obligations.ControlAndStatusWordLayout : Prop :=
  ∀ s : State,
    (crWord s.cr &&& 0xFCF8FFFF#32 = 0#32 ∧ (crWord s.cr).getLsbD 16 = s.cr.hseon ∧ (crWord s.cr).getLsbD 17 = s.cr.hserdy
      ∧ (crWord s.cr).getLsbD 18 = s.cr.hsebyp ∧ (crWord s.cr).getLsbD 24 = s.cr.pllon
      ∧ (crWord s.cr).getLsbD 25 = s.cr.pllrdy)
    ∧ ((acrWord s.acr).extractLsb' 0 3 = s.acr.latency ∧ acrWord s.acr &&& 0xFFFFFFF8#32 = 0#32)
    ∧ ((statusWord s.status).extractLsb' 0 4 = s.status.state ∧ (statusWord s.status).extractLsb' 4 2 = s.status.err
      ∧ (statusWord s.status).getLsbD 6 = s.status.startPend
      ∧ ((statusWord s.status).getLsbD 7 = true ↔ s.status.state ≠ 0#4 ∧ s.status.state ≠ 12#4 ∧ s.status.state ≠ 13#4)
      ∧ (statusWord s.status).getLsbD 8 = s.status.fcValid ∧ (statusWord s.status).getLsbD 9 = s.status.fcPllValid
      ∧ (statusWord s.status).getLsbD 10 = s.status.fcUsbValid ∧ statusWord s.status &&& 0xFFFFF800#32 = 0#32)

/-- Rule R27: the fields of `CFGR` stand at their bits, reserved bits read 0, and `PLLXTPRE` and `USBPRE` read 0 where they are
hardwired, for every parameter set and in every state. -/
def Obligations.ClockConfigurationWordLayout : Prop :=
  ∀ (cfg : Config.Params) (r : Cfgr),
    let w := cfgrWord cfg r
    w.extractLsb' 0 2 = r.sw ∧ w.extractLsb' 2 2 = r.sws ∧ w.extractLsb' 4 4 = r.hpre ∧ w.extractLsb' 8 3 = r.ppre1
    ∧ w.extractLsb' 11 3 = r.ppre2 ∧ w.extractLsb' 14 2 = 0#2 ∧ w.getLsbD 16 = r.pllsrc
    ∧ w.getLsbD 17 = (if cfg.hasPlldiv = true then r.pllxtpre else false) ∧ w.extractLsb' 18 4 = r.pllmul
    ∧ w.getLsbD 22 = (if cfg.hasUsbpre = true then r.usbpre else false) ∧ w.extractLsb' 23 9 = 0#9

/-- Rule R63: the four bytes of a word of the register space, lowest address lowest, spell the word `RDREG` returns. -/
def Obligations.BytesSpellTheWordLittleEndian : Prop :=
  ∀ (cfg : Config.Params) (s : State) (o : BitVec 5),
    byteAt cfg s (4 * o.toNat + 3) ++ byteAt cfg s (4 * o.toNat + 2) ++ byteAt cfg s (4 * o.toNat + 1)
      ++ byteAt cfg s (4 * o.toNat) = memRead cfg s o

/-! ## Frames and rules of the whole machine -/

/-- Rule R20, column "written by": no instruction changes a register it is not listed for, whatever the state. -/
def Obligations.OnlyListedInstructionsWriteARegister : Prop :=
  ∀ (i : Instr) (s t : State) (r : Reg),
    exec i s = .next t → mayWrite i r = false → readReg Config.params t r = readReg Config.params s r

/-- The same, byte by byte: every byte of the register space outside the registers an instruction is listed for reads as before. -/
def Obligations.BytesOutsideTheWrittenRegistersAreUnchanged : Prop :=
  ∀ (i : Instr) (s t : State) (k : Nat),
    exec i s = .next t →
    (∀ r, regAt (BitVec.ofNat 5 (k / 4)) = some r → mayWrite i r = false) →
    byteAt Config.params t k = byteAt Config.params s k

/-- Rules R25, R163, field by field: no instruction changes a flag of `STATUS` it is not listed for, and none a status input of the
clock tree. THE MODEL'S CHOICE in it: the last four clauses are about the model's own fields, which no rule of the spec names. Only
`RDREG` changes `hostRdata` (log 5), only `COMMIT` changes `hostProgram` (log 11), and no instruction changes `schedule` or `draws`
(logs 1 and 6). -/
def Obligations.OnlyListedInstructionsChangeAFlag : Prop :=
  ∀ (i : Instr) (s t : State), exec i s = .next t →
    (t.status.startPend ≠ s.status.startPend → i = .start ∨ i = .idle ∨ ∃ p, i = .commit p)
    ∧ (t.status.err ≠ s.status.err → i = .hseWait ∨ i = .pllWait ∨ i = .swWait)
    ∧ (t.status.fcValid ≠ s.status.fcValid ∨ t.status.fcPllValid ≠ s.status.fcPllValid
        ∨ t.status.fcUsbValid ≠ s.status.fcUsbValid → i = .emit)
    ∧ (t.status.state ≠ s.status.state → formatOf i = .uop)
    ∧ t.cr.hserdy = s.cr.hserdy ∧ t.cr.pllrdy = s.cr.pllrdy ∧ t.cfgr.sws = s.cfgr.sws
    ∧ (t.hostRdata ≠ s.hostRdata → ∃ o, i = .rdreg o) ∧ (t.hostProgram ≠ s.hostProgram → ∃ p, i = .commit p)
    ∧ t.schedule = s.schedule ∧ t.draws = s.draws

/-- Rule R66: no host command, run as an instruction or as the next command of a `COMMIT`, changes a control,
status-of-the-clock-tree, counter or result register, in any state; of `STATUS` it can change `START_PEND` only. THE MODEL'S CHOICE in it: the next command of a `COMMIT` is the `hostNext` move (log 11). -/
def Obligations.TheHostNeverWritesControlRegisters : Prop :=
  ∀ s t : State, (∃ i, formatOf i ≠ .uop ∧ exec i s = .next t) ∨ applyMove .hostNext s = .next t →
    t.cr = s.cr ∧ t.cfgr = s.cfgr ∧ t.acr = s.acr ∧ t.cnt = s.cnt ∧ t.curSysclk = s.curSysclk ∧ t.fc = s.fc
    ∧ t.status = { s.status with startPend := t.status.startPend }

/-- Rules R170, R172, R174: the three errors, and error entry. An instruction changes `STATUS.ERR` only as the last unsuccessful
poll of a bounded wait, and then the whole change is `ERR <- code` and `STATE <- FAILED`. -/
def Obligations.ErrorEntryWritesTheCodeAndFailedOnly : Prop :=
  ∀ (i : Instr) (s t : State), exec i s = .next t → t.status.err ≠ s.status.err →
    ∃ e : BitVec 2, t = { s with status.err := e, status.state := 13#4 }
      ∧ ((i = .hseWait ∧ e = 1#2 ∧ s.cr.hserdy = false ∧ Config.params.nOsc ≤ s.cnt.toNat + 1)
        ∨ (i = .pllWait ∧ e = 2#2 ∧ s.cr.pllrdy = false ∧ Config.params.nPll ≤ s.cnt.toNat + 1)
        ∨ (i = .swWait ∧ e = 3#2 ∧ s.cfgr.sws ≠ s.plan.src ∧ Config.params.nSw ≤ s.cnt.toNat + 1))

/-- Rule R24: every sequencer step goes to a successor its row names, under the row's condition. -/
def Obligations.StateFollowsTheSuccessorTable : Prop :=
  ∀ s t : State, exec (decodeUop s.status.state) s = .next t →
    match s.status.state.toNat, t.status.state.toNat with
    | 0, 0 => s.status.startPend = false
    | 0, 1 => s.status.startPend = true ∧ s.plan.extSelected = true
    | 0, 3 => s.status.startPend = true ∧ s.plan.extSelected = false ∧ s.plan.pllSelected = true
    | 0, 6 => s.status.startPend = true ∧ s.plan.extSelected = false ∧ s.plan.pllSelected = false
    | 1, 2 => True
    | 2, 2 => s.cr.hserdy = false ∧ s.cnt.toNat + 1 < Config.params.nOsc
    | 2, 3 => s.cr.hserdy = true ∧ s.plan.pllSelected = true
    | 2, 6 => s.cr.hserdy = true ∧ s.plan.pllSelected = false
    | 2, 13 => s.cr.hserdy = false ∧ Config.params.nOsc ≤ s.cnt.toNat + 1
    | 3, 4 => True
    | 4, 5 => True
    | 5, 5 => s.cr.pllrdy = false ∧ s.cnt.toNat + 1 < Config.params.nPll
    | 5, 6 => s.cr.pllrdy = true
    | 5, 13 => s.cr.pllrdy = false ∧ Config.params.nPll ≤ s.cnt.toNat + 1
    | 6, 7 => raiseFirst s = true
    | 6, 8 => raiseFirst s = false
    | 7, 8 => True
    | 8, 9 => True
    | 9, 9 => s.cfgr.sws ≠ s.plan.src ∧ s.cnt.toNat + 1 < Config.params.nSw
    | 9, 10 => s.cfgr.sws = s.plan.src ∧ raiseFirst s = false
    | 9, 11 => s.cfgr.sws = s.plan.src ∧ raiseFirst s = true
    | 9, 13 => s.cfgr.sws ≠ s.plan.src ∧ Config.params.nSw ≤ s.cnt.toNat + 1
    | 10, 11 => True
    | 11, 12 => True
    | 12, 12 => True
    | 13, 13 => True
    | 14, 13 => True
    | 15, 13 => True
    | _, _ => False

/-- Rules R21, R213.7: from an accepted `START` on, no move of any agent but reset changes a plan register or unlocks the plan. -/
def Obligations.ThePlanIsLockedOnceCommitted : Prop :=
  ∀ (m : Move) (s t : State), m ≠ .reset → committed s = true → applyMove m s = .next t →
    t.plan = s.plan ∧ committed t = true

/-- Rules R151, R152, R179: no move of any agent but reset leaves `DONE` or `FAILED`, or changes there any field of `STATUS`, the
plan, the record, the current frequency, the counter or the wait states; the sequencer's own step changes nothing at all. -/
def Obligations.TerminalStatesAreAbsorbing : Prop :=
  ∀ (m : Move) (s t : State), m ≠ .reset → s.status.state = 12#4 ∨ s.status.state = 13#4 → applyMove m s = .next t →
    t.status = s.status ∧ t.plan = s.plan ∧ t.fc = s.fc ∧ t.curSysclk = s.curSysclk ∧ t.cnt = s.cnt ∧ t.acr = s.acr
    ∧ (m = .seq → t = s)

/-- Rule R181: the phase, unlocked 0, committing 1, terminal 2, moves only forward under every move but reset. -/
def Obligations.ThePhaseMovesOnlyForward : Prop :=
  ∀ (m : Move) (s t : State), m ≠ .reset → applyMove m s = .next t →
    (unlocked t = true → unlocked s = true) ∧ (terminal s = true → terminal t = true)
    ∧ (committing s = true → unlocked t = false)

/-- Rule R22: the FrozenClocks record is changed by `EMIT` alone; no other move of any agent but reset touches a word of it. -/
def Obligations.OnlyEmitCreatesTheRecord : Prop :=
  ∀ (m : Move) (s t : State), m ≠ .reset → applyMove m s = .next t →
    t.fc ≠ s.fc ∨ t.status.fcValid ≠ s.status.fcValid ∨ t.status.fcPllValid ≠ s.status.fcPllValid
        ∨ t.status.fcUsbValid ≠ s.status.fcUsbValid →
      m = .seq ∧ s.status.state = 11#4 ∧ t.fc = s.plan.f ∧ t.status.state = 12#4

/-! ## Environment and reset -/

/-- Rules R160 to R163: each transition of the clock tree, where it is enabled, sets its one status input and writes nothing
else. -/
def Obligations.EnvironmentTransitionsSetOneInput : Prop :=
  ∀ s : State,
    (s.cr.hseon = true → s.cr.hserdy = false → applyMove (.env .hseRdy) s = .next { s with cr.hserdy := true })
    ∧ (s.cr.pllon = true → s.cr.pllrdy = false → applyMove (.env .pllRdy) s = .next { s with cr.pllrdy := true })
    ∧ (s.cfgr.sws ≠ s.cfgr.sw → applyMove (.env .switch) s = .next { s with cfgr.sws := s.cfgr.sw })

/-- THE MODEL'S CHOICE (log 2): a transition drawn while it is not enabled is a stutter. The spec gives it no step there; that it
changes nothing is the model's. -/
def Obligations.ATransitionDrawnWhileDisabledChangesNothing : Prop :=
  ∀ s : State,
    (s.cr.hseon = false ∨ s.cr.hserdy = true → applyMove (.env .hseRdy) s = .next s)
    ∧ (s.cr.pllon = false ∨ s.cr.pllrdy = true → applyMove (.env .pllRdy) s = .next s)
    ∧ (s.cfgr.sws = s.cfgr.sw → applyMove (.env .switch) s = .next s)

/-- Rule R40: after reset every word of the register space reads 0 but `CUR_SYSCLK`, which reads `F_INT`; the
clock tree's inputs are 0 and the sequencer is in `IDLE` with no start pending. -/
def Obligations.ResetValues : Prop :=
  (∀ o : BitVec 5, memRead Config.params State.reset o = if o = 7#5 then BitVec.ofNat 32 Config.params.fInt else 0#32)
  ∧ (BitVec.ofNat 32 Config.params.fInt).toNat = Config.params.fInt
  ∧ State.reset.cr.hserdy = false ∧ State.reset.cr.pllrdy = false ∧ State.reset.cfgr.sws = 0b00#2
  ∧ State.reset.status.state = 0#4 ∧ State.reset.status.startPend = false

/-- Rules R200, R201: asserting reset from ANY state leaves every register as `State.reset` has it. -/
def Obligations.ResetRestoresEveryRegister : Prop :=
  ∀ s : State,
    let t := resetBlock Config.params s
    t.cr = State.reset.cr ∧ t.cfgr = State.reset.cfgr ∧ t.acr = State.reset.acr ∧ t.status = State.reset.status
    ∧ t.cnt = State.reset.cnt ∧ t.curSysclk = State.reset.curSysclk ∧ t.plan = State.reset.plan ∧ t.fc = State.reset.fc
    ∧ CleanReset t

/-- The move of the reset input: the effect of rule R200 when no commit is running, refused while one is (U4; the model's reading,
log 12). -/
def Obligations.ResetIsRefusedDuringACommit : Prop :=
  ∀ s : State,
    applyMove .reset s
      = if s.status.startPend = true ∨ (s.status.state ≠ 0#4 ∧ s.status.state ≠ 12#4 ∧ s.status.state ≠ 13#4) then
          .refused .resetDuringCommit
        else .next (resetBlock Config.params s)

/-! ## Frequency arithmetic and the plan premise -/

/-- Rules R12, R13: `checked_mul` is the exact product or `ArithmeticOverflow` at 2^32; `checked_div` by a positive divisor is the
exact quotient or `NonIntegerDivision`, never a rounded one; division by a ratio `n/m` is the exact `f * m / n`, both checked. -/
def Obligations.CheckedArithmeticIsExact : Prop :=
  (∀ f k r : Nat, checkedMul f k = .ok r ↔ r = f * k ∧ r < 2 ^ 32)
  ∧ (∀ f k : Nat, checkedMul f k = .error .arithmeticOverflow ↔ 2 ^ 32 ≤ f * k)
  ∧ (∀ f d r : Nat, 0 < d → (checkedDiv f d = .ok r ↔ r * d = f))
  ∧ (∀ f d : Nat, 0 < d → (checkedDiv f d = .error .nonIntegerDivision ↔ ¬ d ∣ f))
  ∧ (∀ f n m r : Nat, 0 < n → (checkedDivRatio f n m = .ok r ↔ r * n = f * m ∧ f * m < 2 ^ 32))

/-- Rule R35: the code-to-ratio tables. -/
def Obligations.RatioTables : Prop :=
  (List.range 16).map (fun c => hdiv (BitVec.ofNat 4 c)) = [1, 1, 1, 1, 1, 1, 1, 1, 2, 4, 8, 16, 64, 128, 256, 512]
  ∧ (List.range 8).map (fun c => pdiv (BitVec.ofNat 3 c)) = [1, 1, 1, 1, 2, 4, 8, 16]
  ∧ (List.range 16).map (fun c => pllmul (BitVec.ofNat 4 c)) = [2, 3, 4, 5, 6, 7, 8, 9, 10, 11, 12, 13, 14, 15, 16, 16]
  ∧ plldiv false = 1 ∧ plldiv true = 2
  ∧ (usbdivNum false, usbdivDen false) = (3, 2) ∧ (usbdivNum true, usbdivDen true) = (1, 1)

/-- Rule R205, row `wf`: a valid plan in a correct encoding is `wf`, for every parameter set. -/
def Obligations.AValidPlanIsWellFormed : Prop :=
  ∀ (cfg : Config.Params) (p : Plan), ValidPlan cfg p → correctlyEncoded cfg p = true → planWf cfg p = true

/-! ## Invariants and headline results -/

/-- The run invariant holds at reset. -/
def Obligations.RunInvariantHoldsAtReset : Prop := RunInv Config.params State.reset

/-- TIER 3 (b). Every step, of any agent, keeps the run invariant (rules R213, R116, R154, R175), from every state that meets it.
What the invariant says of `SWS` and the ready flags after the poll that saw them rests on rule R164, an assumption of the spec (log
17). -/
def Obligations.EveryStepKeepsTheRunInvariant : Prop :=
  ∀ s t : State, RunInv Config.params s → step s = .next t → RunInv Config.params t

/-- Rules R113 (a), R208: where the run invariant holds, no step faults: U1 is out of reach. -/
def Obligations.NoStepOfARunFaults : Prop :=
  ∀ (s : State) (r : Fault), RunInv Config.params s → step s ≠ .fault r

/-- Rule R212: in every state that meets the run invariant and whose plan, once committed, is valid, SYSCLK is within the
wait states' ceiling and every bus within its maximum: also after `FAILED` and after a late switch. For every parameter set. -/
def Obligations.EveryRunStateIsSafe : Prop :=
  ∀ (cfg : Config.Params) (s : State),
    RunInv cfg s → (committed s = true → ValidPlan cfg s.plan) → Safe cfg s

/-- Rule R212 over runs (the premise `CleanReset` is the start at reset; `ParamsOk` is carried by the parameters, `EnvOk` and
`HostOk` by what the moves can do): whatever the moves of the three agents from reset, every state reached whose plan, once
committed, is valid, is safe. -/
def Obligations.EveryRunFromResetIsSafe : Prop :=
  ∀ (ms : List Move) (t : State),
    runMoves ms State.reset = .next t → (committed t = true → ValidPlan Config.params t.plan) → Safe Config.params t

/-- Rules R131, R207: in a run, the mux is asked for (and reports) another source only after the plan's wait states stand in
`ACR`, and, when SYSCLK rises or stays, after the plan's prescalers stand in `CFGR`; when it falls, the prescalers are still the
reset ones until the new source is the active one. What is said of `SWS` rests on rule R164, an assumption of the spec (log 17). -/
def Obligations.TheSwitchFollowsItsPreparation : Prop :=
  ∀ (cfg : Config.Params) (s : State), RunInv cfg s → s.cfgr.sw ≠ 0b00#2 ∨ s.cfgr.sws ≠ 0b00#2 →
    s.acr.latency = s.plan.ws
    ∧ (raiseFirst s = true → PrescalersPlan s)
    ∧ (raiseFirst s = false → s.cfgr.sws = s.plan.src ∨ PrescalersReset s)

/-- Rule R154: what the end of a run leaves. THE MODEL'S PREMISE in it: the clause `SWS = P.SRC` in every `DONE` state rests on
rule R164, an assumption of the spec that the model builds into its transitions (log 17, unsafe). R154 itself gives `SW = SWS =
P.SRC` at the moment of the confirming poll only, and says that it does not say that `SWS` still equals `SW` afterwards. -/
def Obligations.TheEndOfARun : Prop :=
  ∀ (cfg : Config.Params) (s : State), RunInv cfg s →
    (s.status.state = 12#4 →
      s.status.err = 0#2 ∧ s.status.fcValid = true ∧ s.fc = s.plan.f ∧ s.cfgr.sw = s.plan.src ∧ s.cfgr.sws = s.plan.src
      ∧ s.acr.latency = s.plan.ws ∧ PrescalersPlan s)
    ∧ (s.status.state = 13#4 →
      (s.status.err = 1#2 ∨ s.status.err = 2#2 ∨ s.status.err = 3#2) ∧ s.status.fcValid = false
      ∧ s.fc = { sysclk := 0#32, ahb := 0#32, apb1 := 0#32, apb2 := 0#32, pll := 0#32, usb := 0#32 })

/-- Rules R154, R206, R211: in `DONE`, with a valid plan, the record tells the clocks that run: the observed frequencies are the
`FC_*` words, the PLL's where `FC_PLL_VALID` is 1 and the USB clock's where `FC_USB_VALID` is 1. That `SWS` and the
ready flags stay as the polls saw them rests on rule R164, an assumption of the spec (log 17). -/
def Obligations.TheRecordTellsTheClocks : Prop :=
  ∀ (cfg : Config.Params) (s : State), RunInv cfg s → s.status.state = 12#4 → ValidPlan cfg s.plan →
    sysclk cfg s = (s.fc.sysclk.toNat : ℚ) ∧ ahb cfg s = (s.fc.ahb.toNat : ℚ) ∧ apb1 cfg s = (s.fc.apb1.toNat : ℚ)
    ∧ apb2 cfg s = (s.fc.apb2.toNat : ℚ)
    ∧ (s.status.fcPllValid = true → fPll cfg s = (s.fc.pll.toNat : ℚ))
    ∧ (s.status.fcUsbValid = true → usb cfg s = (s.fc.usb.toNat : ℚ))

/-- Rule R175: what each error leaves behind, column by column, relative to the reset state; and the count that rules R31 and R172
leave in `CNT`. After error 3 `SWS` is still the internal oscillator or, after a late switch (rule R210), the plan's source; that it
is unaltered at the failing poll is `TheFailingPollLeavesTheActiveSource`. What is said of `SWS` rests on rule R164, an assumption
of the spec (log 17). -/
def Obligations.TheResidueOfEachError : Prop :=
  ∀ (cfg : Config.Params) (s : State), RunInv cfg s → s.status.state = 13#4 →
    (s.status.err = 1#2 →
      s.cr.hseon = true ∧ s.cr.hsebyp = s.plan.hsebyp ∧ s.cr.pllon = false ∧ PllParamsReset s ∧ s.acr.latency = 0#3
      ∧ PrescalersReset s ∧ s.cfgr.sw = 0b00#2 ∧ s.cfgr.sws = 0b00#2 ∧ s.cnt.toNat + 1 = cfg.nOsc)
    ∧ (s.status.err = 2#2 →
      s.cr.hseon = s.plan.extSelected ∧ s.cr.hsebyp = (s.plan.extSelected && s.plan.hsebyp) ∧ s.cr.pllon = true
      ∧ PllParamsPlan s ∧ s.acr.latency = 0#3 ∧ PrescalersReset s ∧ s.cfgr.sw = 0b00#2 ∧ s.cfgr.sws = 0b00#2
      ∧ s.cnt.toNat + 1 = cfg.nPll)
    ∧ (s.status.err = 3#2 →
      s.cr.hseon = s.plan.extSelected ∧ s.cr.hsebyp = (s.plan.extSelected && s.plan.hsebyp) ∧ s.acr.latency = s.plan.ws
      ∧ s.cfgr.sw = s.plan.src ∧ (s.cfgr.sws = 0b00#2 ∨ s.cfgr.sws = s.plan.src)
      ∧ (s.plan.pllSelected = true → s.cr.pllon = true ∧ PllParamsPlan s)
      ∧ (s.plan.pllSelected = false → s.cr.pllon = false ∧ PllParamsReset s)
      ∧ (raiseFirst s = true → PrescalersPlan s) ∧ (raiseFirst s = false → PrescalersReset s)
      ∧ s.cnt.toNat + 1 = cfg.nSw)
    ∧ s.curSysclk = BitVec.ofNat 32 cfg.fInt ∧ RecordEmpty s

/-- Rules R154, R175, row `SWS`: in a run, the poll that raises an error leaves the internal oscillator, the source from before the
commit, active. That `SWS` has moved nowhere else before that poll rests on rule R164, an assumption of the spec (log 17). -/
def Obligations.TheFailingPollLeavesTheActiveSource : Prop :=
  ∀ s t : State, RunInv Config.params s → exec (decodeUop s.status.state) s = .next t →
    t.status.err ≠ s.status.err → t.cfgr.sws = 0b00#2 ∧ t.cfgr.sws = s.cfgr.sws

/-- Rule R155, step by step: from a started commit that has not ended, a sequencer step that answers a next state brings the end
strictly nearer, and no move of another agent but reset moves it away. -/
def Obligations.SequencerStepsBringTheEndNearer : Prop :=
  ∀ (m : Move) (s t : State), m ≠ .reset → committed s = true → terminal s = false → applyMove m s = .next t →
    (m = .seq → stepsLeft Config.params t < stepsLeft Config.params s)
    ∧ (m ≠ .seq → stepsLeft Config.params t = stepsLeft Config.params s)

/-- Rule R155: from an accepted `START`, whatever the environment does and however the agents interleave, the sequencer is
in `DONE` or `FAILED` after at most `B` of its own steps. -/
def Obligations.EveryCommitEndsWithinTheBound : Prop :=
  ∀ (ms : List Move) (s t : State),
    s.status.state = 0#4 → s.status.startPend = true → Move.reset ∉ ms → runMoves ms s = .next t →
    1 + (1 + Config.params.nOsc) + (2 + Config.params.nPll) + (3 + Config.params.nSw) + 1 ≤ seqCount ms →
    t.status.state = 12#4 ∨ t.status.state = 13#4

/-- Rule R166, eager schedule: from an accepted `START` in a run, `CNT` is 0 in every state of the eager run, and the sequencer
reaches `DONE`, the plan's record published. That `SWS` is then still the plan's source rests on rule R164, an assumption of the
spec (log 17). -/
def Obligations.TheEagerScheduleReachesDone : Prop :=
  ∀ s : State, RunInv Config.params s → s.status.startPend = true →
    (∀ k u, eagerRun k s = .next u → u.cnt = 0#32)
    ∧ ∃ n t, eagerRun n s = .next t ∧ t.status.state = 12#4 ∧ t.fc = s.plan.f ∧ t.cfgr.sws = s.plan.src

/-- Rule R166, absent schedule: with no environment step, a plan that needs the external oscillator ends in
`OscillatorStartupTimeout`, a PLL plan on the internal oscillator in `PllLockTimeout`, and a plan that keeps the internal
oscillator in `DONE`. -/
def Obligations.TheAbsentScheduleTimesOut : Prop :=
  ∀ s : State, RunInv Config.params s → s.status.startPend = true →
    ∃ n t, runMoves (List.replicate n .seq) s = .next t
      ∧ (s.plan.extSelected = true → t.status.state = 13#4 ∧ t.status.err = 1#2)
      ∧ (s.plan.extSelected = false → s.plan.pllSelected = true → t.status.state = 13#4 ∧ t.status.err = 2#2)
      ∧ (s.plan.src = 0b00#2 → t.status.state = 12#4)
end

