-- ==== Sys2Proof/Laws/State.lean ====
section
/-! SUPPORT. One lemma per field per named update of the state, so that no later proof unfolds a record update. -/

namespace Sys2Proof.Machine

/-! ## `goto` -/

@[simp] theorem goto_cr (c : BitVec 4) (s : State) : (goto c s).cr = s.cr := rfl
@[simp] theorem goto_cfgr (c : BitVec 4) (s : State) : (goto c s).cfgr = s.cfgr := rfl
@[simp] theorem goto_acr (c : BitVec 4) (s : State) : (goto c s).acr = s.acr := rfl
@[simp] theorem goto_cnt (c : BitVec 4) (s : State) : (goto c s).cnt = s.cnt := rfl
@[simp] theorem goto_curSysclk (c : BitVec 4) (s : State) : (goto c s).curSysclk = s.curSysclk := rfl
@[simp] theorem goto_plan (c : BitVec 4) (s : State) : (goto c s).plan = s.plan := rfl
@[simp] theorem goto_fc (c : BitVec 4) (s : State) : (goto c s).fc = s.fc := rfl
@[simp] theorem goto_hostRdata (c : BitVec 4) (s : State) : (goto c s).hostRdata = s.hostRdata := rfl
@[simp] theorem goto_hostProgram (c : BitVec 4) (s : State) : (goto c s).hostProgram = s.hostProgram := rfl
@[simp] theorem goto_schedule (c : BitVec 4) (s : State) : (goto c s).schedule = s.schedule := rfl
@[simp] theorem goto_draws (c : BitVec 4) (s : State) : (goto c s).draws = s.draws := rfl
@[simp] theorem goto_status_state (c : BitVec 4) (s : State) : (goto c s).status.state = c := rfl
@[simp] theorem goto_status_err (c : BitVec 4) (s : State) : (goto c s).status.err = s.status.err := rfl
@[simp] theorem goto_status_startPend (c : BitVec 4) (s : State) : (goto c s).status.startPend = s.status.startPend := rfl
@[simp] theorem goto_status_fcValid (c : BitVec 4) (s : State) : (goto c s).status.fcValid = s.status.fcValid := rfl
@[simp] theorem goto_status_fcPllValid (c : BitVec 4) (s : State) : (goto c s).status.fcPllValid = s.status.fcPllValid := rfl
@[simp] theorem goto_status_fcUsbValid (c : BitVec 4) (s : State) : (goto c s).status.fcUsbValid = s.status.fcUsbValid := rfl

/-! ## `raiseError` -/

@[simp] theorem raiseError_cr (e : TimeoutError) (s : State) : (raiseError e s).cr = s.cr := rfl
@[simp] theorem raiseError_cfgr (e : TimeoutError) (s : State) : (raiseError e s).cfgr = s.cfgr := rfl
@[simp] theorem raiseError_acr (e : TimeoutError) (s : State) : (raiseError e s).acr = s.acr := rfl
@[simp] theorem raiseError_cnt (e : TimeoutError) (s : State) : (raiseError e s).cnt = s.cnt := rfl
@[simp] theorem raiseError_curSysclk (e : TimeoutError) (s : State) : (raiseError e s).curSysclk = s.curSysclk := rfl
@[simp] theorem raiseError_plan (e : TimeoutError) (s : State) : (raiseError e s).plan = s.plan := rfl
@[simp] theorem raiseError_fc (e : TimeoutError) (s : State) : (raiseError e s).fc = s.fc := rfl
@[simp] theorem raiseError_hostRdata (e : TimeoutError) (s : State) : (raiseError e s).hostRdata = s.hostRdata := rfl
@[simp] theorem raiseError_hostProgram (e : TimeoutError) (s : State) : (raiseError e s).hostProgram = s.hostProgram := rfl
@[simp] theorem raiseError_schedule (e : TimeoutError) (s : State) : (raiseError e s).schedule = s.schedule := rfl
@[simp] theorem raiseError_draws (e : TimeoutError) (s : State) : (raiseError e s).draws = s.draws := rfl
@[simp] theorem raiseError_status_state (e : TimeoutError) (s : State) : (raiseError e s).status.state = Code.failed := rfl
@[simp] theorem raiseError_status_err (e : TimeoutError) (s : State) : (raiseError e s).status.err = errCode e := rfl
@[simp] theorem raiseError_status_startPend (e : TimeoutError) (s : State) : (raiseError e s).status.startPend = s.status.startPend := rfl
@[simp] theorem raiseError_status_fcValid (e : TimeoutError) (s : State) : (raiseError e s).status.fcValid = s.status.fcValid := rfl
@[simp] theorem raiseError_status_fcPllValid (e : TimeoutError) (s : State) : (raiseError e s).status.fcPllValid = s.status.fcPllValid := rfl
@[simp] theorem raiseError_status_fcUsbValid (e : TimeoutError) (s : State) : (raiseError e s).status.fcUsbValid = s.status.fcUsbValid := rfl

/-! ## `writePllParams` and `writePrescalers` -/

@[simp] theorem writePllParams_cr (cfg : Config.Params) (s : State) : (writePllParams cfg s).cr = s.cr := rfl
@[simp] theorem writePllParams_acr (cfg : Config.Params) (s : State) : (writePllParams cfg s).acr = s.acr := rfl
@[simp] theorem writePllParams_status (cfg : Config.Params) (s : State) : (writePllParams cfg s).status = s.status := rfl
@[simp] theorem writePllParams_cnt (cfg : Config.Params) (s : State) : (writePllParams cfg s).cnt = s.cnt := rfl
@[simp] theorem writePllParams_curSysclk (cfg : Config.Params) (s : State) : (writePllParams cfg s).curSysclk = s.curSysclk := rfl
@[simp] theorem writePllParams_plan (cfg : Config.Params) (s : State) : (writePllParams cfg s).plan = s.plan := rfl
@[simp] theorem writePllParams_fc (cfg : Config.Params) (s : State) : (writePllParams cfg s).fc = s.fc := rfl
@[simp] theorem writePllParams_hostRdata (cfg : Config.Params) (s : State) : (writePllParams cfg s).hostRdata = s.hostRdata := rfl
@[simp] theorem writePllParams_hostProgram (cfg : Config.Params) (s : State) : (writePllParams cfg s).hostProgram = s.hostProgram := rfl
@[simp] theorem writePllParams_schedule (cfg : Config.Params) (s : State) : (writePllParams cfg s).schedule = s.schedule := rfl
@[simp] theorem writePllParams_draws (cfg : Config.Params) (s : State) : (writePllParams cfg s).draws = s.draws := rfl
@[simp] theorem writePllParams_cfgr_sw (cfg : Config.Params) (s : State) : (writePllParams cfg s).cfgr.sw = s.cfgr.sw := rfl
@[simp] theorem writePllParams_cfgr_sws (cfg : Config.Params) (s : State) : (writePllParams cfg s).cfgr.sws = s.cfgr.sws := rfl
@[simp] theorem writePllParams_cfgr_hpre (cfg : Config.Params) (s : State) : (writePllParams cfg s).cfgr.hpre = s.cfgr.hpre := rfl
@[simp] theorem writePllParams_cfgr_ppre1 (cfg : Config.Params) (s : State) : (writePllParams cfg s).cfgr.ppre1 = s.cfgr.ppre1 := rfl
@[simp] theorem writePllParams_cfgr_ppre2 (cfg : Config.Params) (s : State) : (writePllParams cfg s).cfgr.ppre2 = s.cfgr.ppre2 := rfl
@[simp] theorem writePllParams_cfgr_pllsrc (cfg : Config.Params) (s : State) : (writePllParams cfg s).cfgr.pllsrc = s.plan.pllin := rfl
@[simp] theorem writePllParams_cfgr_pllxtpre (cfg : Config.Params) (s : State) : (writePllParams cfg s).cfgr.pllxtpre = wirePlldiv cfg s.plan.plldiv := rfl
@[simp] theorem writePllParams_cfgr_pllmul (cfg : Config.Params) (s : State) : (writePllParams cfg s).cfgr.pllmul = s.plan.pllmul := rfl
@[simp] theorem writePllParams_cfgr_usbpre (cfg : Config.Params) (s : State) : (writePllParams cfg s).cfgr.usbpre = s.cfgr.usbpre := rfl

@[simp] theorem writePrescalers_cr (cfg : Config.Params) (s : State) : (writePrescalers cfg s).cr = s.cr := rfl
@[simp] theorem writePrescalers_acr (cfg : Config.Params) (s : State) : (writePrescalers cfg s).acr = s.acr := rfl
@[simp] theorem writePrescalers_status (cfg : Config.Params) (s : State) : (writePrescalers cfg s).status = s.status := rfl
@[simp] theorem writePrescalers_cnt (cfg : Config.Params) (s : State) : (writePrescalers cfg s).cnt = s.cnt := rfl
@[simp] theorem writePrescalers_curSysclk (cfg : Config.Params) (s : State) : (writePrescalers cfg s).curSysclk = s.curSysclk := rfl
@[simp] theorem writePrescalers_plan (cfg : Config.Params) (s : State) : (writePrescalers cfg s).plan = s.plan := rfl
@[simp] theorem writePrescalers_fc (cfg : Config.Params) (s : State) : (writePrescalers cfg s).fc = s.fc := rfl
@[simp] theorem writePrescalers_hostRdata (cfg : Config.Params) (s : State) : (writePrescalers cfg s).hostRdata = s.hostRdata := rfl
@[simp] theorem writePrescalers_hostProgram (cfg : Config.Params) (s : State) : (writePrescalers cfg s).hostProgram = s.hostProgram := rfl
@[simp] theorem writePrescalers_schedule (cfg : Config.Params) (s : State) : (writePrescalers cfg s).schedule = s.schedule := rfl
@[simp] theorem writePrescalers_draws (cfg : Config.Params) (s : State) : (writePrescalers cfg s).draws = s.draws := rfl
@[simp] theorem writePrescalers_cfgr_sw (cfg : Config.Params) (s : State) : (writePrescalers cfg s).cfgr.sw = s.cfgr.sw := rfl
@[simp] theorem writePrescalers_cfgr_sws (cfg : Config.Params) (s : State) : (writePrescalers cfg s).cfgr.sws = s.cfgr.sws := rfl
@[simp] theorem writePrescalers_cfgr_hpre (cfg : Config.Params) (s : State) : (writePrescalers cfg s).cfgr.hpre = s.plan.hpre := rfl
@[simp] theorem writePrescalers_cfgr_ppre1 (cfg : Config.Params) (s : State) : (writePrescalers cfg s).cfgr.ppre1 = s.plan.ppre1 := rfl
@[simp] theorem writePrescalers_cfgr_ppre2 (cfg : Config.Params) (s : State) : (writePrescalers cfg s).cfgr.ppre2 = s.plan.ppre2 := rfl
@[simp] theorem writePrescalers_cfgr_pllsrc (cfg : Config.Params) (s : State) : (writePrescalers cfg s).cfgr.pllsrc = s.cfgr.pllsrc := rfl
@[simp] theorem writePrescalers_cfgr_pllxtpre (cfg : Config.Params) (s : State) : (writePrescalers cfg s).cfgr.pllxtpre = s.cfgr.pllxtpre := rfl
@[simp] theorem writePrescalers_cfgr_pllmul (cfg : Config.Params) (s : State) : (writePrescalers cfg s).cfgr.pllmul = s.cfgr.pllmul := rfl
@[simp] theorem writePrescalers_cfgr_usbpre (cfg : Config.Params) (s : State) : (writePrescalers cfg s).cfgr.usbpre = wireUsbpre cfg s.plan.usbpre := rfl

/-! ## The environment's updates -/

@[simp] theorem envEffect_hseRdy_cfgr (s : State) : (envEffect .hseRdy s).cfgr = s.cfgr := rfl
@[simp] theorem envEffect_hseRdy_acr (s : State) : (envEffect .hseRdy s).acr = s.acr := rfl
@[simp] theorem envEffect_hseRdy_status (s : State) : (envEffect .hseRdy s).status = s.status := rfl
@[simp] theorem envEffect_hseRdy_cnt (s : State) : (envEffect .hseRdy s).cnt = s.cnt := rfl
@[simp] theorem envEffect_hseRdy_curSysclk (s : State) : (envEffect .hseRdy s).curSysclk = s.curSysclk := rfl
@[simp] theorem envEffect_hseRdy_plan (s : State) : (envEffect .hseRdy s).plan = s.plan := rfl
@[simp] theorem envEffect_hseRdy_fc (s : State) : (envEffect .hseRdy s).fc = s.fc := rfl
@[simp] theorem envEffect_hseRdy_hostRdata (s : State) : (envEffect .hseRdy s).hostRdata = s.hostRdata := rfl
@[simp] theorem envEffect_hseRdy_hostProgram (s : State) : (envEffect .hseRdy s).hostProgram = s.hostProgram := rfl
@[simp] theorem envEffect_hseRdy_schedule (s : State) : (envEffect .hseRdy s).schedule = s.schedule := rfl
@[simp] theorem envEffect_hseRdy_draws (s : State) : (envEffect .hseRdy s).draws = s.draws := rfl
@[simp] theorem envEffect_hseRdy_cr_hseon (s : State) : (envEffect .hseRdy s).cr.hseon = s.cr.hseon := rfl
@[simp] theorem envEffect_hseRdy_cr_hserdy (s : State) : (envEffect .hseRdy s).cr.hserdy = true := rfl
@[simp] theorem envEffect_hseRdy_cr_hsebyp (s : State) : (envEffect .hseRdy s).cr.hsebyp = s.cr.hsebyp := rfl
@[simp] theorem envEffect_hseRdy_cr_pllon (s : State) : (envEffect .hseRdy s).cr.pllon = s.cr.pllon := rfl
@[simp] theorem envEffect_hseRdy_cr_pllrdy (s : State) : (envEffect .hseRdy s).cr.pllrdy = s.cr.pllrdy := rfl
@[simp] theorem envEffect_pllRdy_cfgr (s : State) : (envEffect .pllRdy s).cfgr = s.cfgr := rfl
@[simp] theorem envEffect_pllRdy_acr (s : State) : (envEffect .pllRdy s).acr = s.acr := rfl
@[simp] theorem envEffect_pllRdy_status (s : State) : (envEffect .pllRdy s).status = s.status := rfl
@[simp] theorem envEffect_pllRdy_cnt (s : State) : (envEffect .pllRdy s).cnt = s.cnt := rfl
@[simp] theorem envEffect_pllRdy_curSysclk (s : State) : (envEffect .pllRdy s).curSysclk = s.curSysclk := rfl
@[simp] theorem envEffect_pllRdy_plan (s : State) : (envEffect .pllRdy s).plan = s.plan := rfl
@[simp] theorem envEffect_pllRdy_fc (s : State) : (envEffect .pllRdy s).fc = s.fc := rfl
@[simp] theorem envEffect_pllRdy_hostRdata (s : State) : (envEffect .pllRdy s).hostRdata = s.hostRdata := rfl
@[simp] theorem envEffect_pllRdy_hostProgram (s : State) : (envEffect .pllRdy s).hostProgram = s.hostProgram := rfl
@[simp] theorem envEffect_pllRdy_schedule (s : State) : (envEffect .pllRdy s).schedule = s.schedule := rfl
@[simp] theorem envEffect_pllRdy_draws (s : State) : (envEffect .pllRdy s).draws = s.draws := rfl
@[simp] theorem envEffect_pllRdy_cr_hseon (s : State) : (envEffect .pllRdy s).cr.hseon = s.cr.hseon := rfl
@[simp] theorem envEffect_pllRdy_cr_hserdy (s : State) : (envEffect .pllRdy s).cr.hserdy = s.cr.hserdy := rfl
@[simp] theorem envEffect_pllRdy_cr_hsebyp (s : State) : (envEffect .pllRdy s).cr.hsebyp = s.cr.hsebyp := rfl
@[simp] theorem envEffect_pllRdy_cr_pllon (s : State) : (envEffect .pllRdy s).cr.pllon = s.cr.pllon := rfl
@[simp] theorem envEffect_pllRdy_cr_pllrdy (s : State) : (envEffect .pllRdy s).cr.pllrdy = true := rfl
@[simp] theorem envEffect_switch_cr (s : State) : (envEffect .switch s).cr = s.cr := rfl
@[simp] theorem envEffect_switch_acr (s : State) : (envEffect .switch s).acr = s.acr := rfl
@[simp] theorem envEffect_switch_status (s : State) : (envEffect .switch s).status = s.status := rfl
@[simp] theorem envEffect_switch_cnt (s : State) : (envEffect .switch s).cnt = s.cnt := rfl
@[simp] theorem envEffect_switch_curSysclk (s : State) : (envEffect .switch s).curSysclk = s.curSysclk := rfl
@[simp] theorem envEffect_switch_plan (s : State) : (envEffect .switch s).plan = s.plan := rfl
@[simp] theorem envEffect_switch_fc (s : State) : (envEffect .switch s).fc = s.fc := rfl
@[simp] theorem envEffect_switch_hostRdata (s : State) : (envEffect .switch s).hostRdata = s.hostRdata := rfl
@[simp] theorem envEffect_switch_hostProgram (s : State) : (envEffect .switch s).hostProgram = s.hostProgram := rfl
@[simp] theorem envEffect_switch_schedule (s : State) : (envEffect .switch s).schedule = s.schedule := rfl
@[simp] theorem envEffect_switch_draws (s : State) : (envEffect .switch s).draws = s.draws := rfl
@[simp] theorem envEffect_switch_cfgr_sw (s : State) : (envEffect .switch s).cfgr.sw = s.cfgr.sw := rfl
@[simp] theorem envEffect_switch_cfgr_sws (s : State) : (envEffect .switch s).cfgr.sws = s.cfgr.sw := rfl
@[simp] theorem envEffect_switch_cfgr_hpre (s : State) : (envEffect .switch s).cfgr.hpre = s.cfgr.hpre := rfl
@[simp] theorem envEffect_switch_cfgr_ppre1 (s : State) : (envEffect .switch s).cfgr.ppre1 = s.cfgr.ppre1 := rfl
@[simp] theorem envEffect_switch_cfgr_ppre2 (s : State) : (envEffect .switch s).cfgr.ppre2 = s.cfgr.ppre2 := rfl
@[simp] theorem envEffect_switch_cfgr_pllsrc (s : State) : (envEffect .switch s).cfgr.pllsrc = s.cfgr.pllsrc := rfl
@[simp] theorem envEffect_switch_cfgr_pllxtpre (s : State) : (envEffect .switch s).cfgr.pllxtpre = s.cfgr.pllxtpre := rfl
@[simp] theorem envEffect_switch_cfgr_pllmul (s : State) : (envEffect .switch s).cfgr.pllmul = s.cfgr.pllmul := rfl
@[simp] theorem envEffect_switch_cfgr_usbpre (s : State) : (envEffect .switch s).cfgr.usbpre = s.cfgr.usbpre := rfl

/-! ## The validity flags -/

@[simp] theorem emittedFlags_state (p : Plan) (t : Status) : (emittedFlags p t).state = t.state := rfl
@[simp] theorem emittedFlags_err (p : Plan) (t : Status) : (emittedFlags p t).err = t.err := rfl
@[simp] theorem emittedFlags_startPend (p : Plan) (t : Status) : (emittedFlags p t).startPend = t.startPend := rfl
@[simp] theorem emittedFlags_fcValid (p : Plan) (t : Status) : (emittedFlags p t).fcValid = true := rfl
@[simp] theorem emittedFlags_fcPllValid (p : Plan) (t : Status) : (emittedFlags p t).fcPllValid = p.pllSelected := rfl
@[simp] theorem emittedFlags_fcUsbValid (p : Plan) (t : Status) : (emittedFlags p t).fcUsbValid = p.usbEn := rfl

/-! ## Plan words -/

@[simp] theorem freqs_get_set_self (f : Freqs) (r : FreqReg) (v : Word) : (f.set r v).get r = v := by cases r <;> rfl

theorem freqs_get_set_other (f : Freqs) {r q : FreqReg} (v : Word) (h : q ≠ r) : (f.set r v).get q = f.get q := by
  cases r <;> cases q <;> first | rfl | exact absurd rfl h

@[simp] theorem plan_get_set_self (p : Plan) (r : PlanReg) (v : Word) : (p.set r v).get r = v := by
  cases r with
  | cfg => rfl
  | freq q => exact freqs_get_set_self p.f q v

theorem plan_get_set_other (p : Plan) {r q : PlanReg} (v : Word) (h : q ≠ r) : (p.set r v).get q = p.get q := by
  cases r with
  | cfg =>
    cases q with
    | cfg => exact absurd rfl h
    | freq q => rfl
  | freq r =>
    cases q with
    | cfg => rfl
    | freq q => exact freqs_get_set_other p.f v fun e => h (by rw [e])

end Sys2Proof.Machine
end

