-- ==== Sys2Proof/Laws/Ops.lean ====
section
/-! SUPPORT. For each shared operation, everything it can do, said once: later proofs cite these instead of unfolding. -/

namespace Sys2Proof.Machine

/-- A poll succeeds, raises the error at its bound, or is counted (rules R112, R115, R134). -/
theorem poll_cases (ready : Bool) (bound : Nat) (c : BitVec 4) (e : TimeoutError) (s : State) :
    (ready = true ∧ poll ready bound c e s = goto c s)
    ∨ (ready = false ∧ bound ≤ s.cnt.toNat + 1 ∧ poll ready bound c e s = raiseError e s)
    ∨ (ready = false ∧ s.cnt.toNat + 1 < bound ∧ poll ready bound c e s = { s with cnt := s.cnt + 1#32 }) := by
  unfold poll
  cases ready with
  | true => exact .inl ⟨rfl, rfl⟩
  | false =>
    by_cases h : bound ≤ s.cnt.toNat + 1
    · exact .inr (.inl ⟨rfl, h, by simp [h]⟩)
    · exact .inr (.inr ⟨rfl, Nat.lt_of_not_le h, by simp [h]⟩)

/-- A counted poll adds one: `CNT` does not wrap below a bound under 2^32 (rule R31). -/
theorem cnt_succ_toNat {s : State} {bound : Nat} (hb : bound < 2 ^ 32) (h : s.cnt.toNat + 1 < bound) :
    (s.cnt + 1#32).toNat = s.cnt.toNat + 1 := by
  have := s.cnt.isLt
  rw [BitVec.toNat_add]
  simp only [BitVec.toNat_ofNat]
  omega

/-- A plan word is written while unlocked, and nothing changes otherwise (rule R100). -/
theorem writePlan_cases (r : PlanReg) (v : Word) (s : State) :
    (unlocked s = true ∧ writePlan r v s = { s with plan := s.plan.set r v })
    ∨ (unlocked s = false ∧ writePlan r v s = s) := by
  unfold writePlan
  cases h : unlocked s with
  | true => exact .inl ⟨rfl, rfl⟩
  | false => exact .inr ⟨rfl, rfl⟩

/-- `START` is accepted iff unlocked and `wf` (rule R101). -/
theorem acceptStart_cases (cfg : Config.Params) (s : State) :
    (unlocked s = true ∧ planWf cfg s.plan = true ∧ acceptStart cfg s = { s with status.startPend := true })
    ∨ ((unlocked s = false ∨ planWf cfg s.plan = false) ∧ acceptStart cfg s = s) := by
  unfold acceptStart
  cases h : unlocked s with
  | false => exact .inr ⟨.inl rfl, by simp⟩
  | true =>
    cases h' : planWf cfg s.plan with
    | true => exact .inl ⟨rfl, rfl, by simp⟩
    | false => exact .inr ⟨.inr rfl, by simp⟩

/-- With no `COMMIT` under way the host's next step changes nothing (log 11). -/
theorem hostNext_nil (cfg : Config.Params) {s : State} (h : s.hostProgram = []) : hostNext cfg s = s := by
  simp [hostNext, h]

/-- With one under way it issues its next command (rule R104). -/
theorem hostNext_cons (cfg : Config.Params) {s : State} {c : CommitCommand} {cs : List CommitCommand}
    (h : s.hostProgram = c :: cs) : hostNext cfg s = commitCommand cfg c { s with hostProgram := cs } := by
  simp [hostNext, h]

/-- What a bus command of a `COMMIT` can do (rules R100, R101, R104): while unlocked, a new plan, and `START_PEND` set where that
plan is `wf`; nothing else. -/
theorem commitCommand_cases (cfg : Config.Params) (c : CommitCommand) (s : State) :
    ∃ p b, commitCommand cfg c s = { s with plan := p, status.startPend := b }
      ∧ (unlocked s = false → p = s.plan ∧ b = s.status.startPend)
      ∧ (b = true → s.status.startPend = true ∨ planWf cfg p = true) := by
  cases c with
  | write r v =>
    obtain ⟨hu, e⟩ | ⟨-, e⟩ := writePlan_cases r v s
    · exact ⟨_, s.status.startPend, e, by simp [hu], .inl⟩
    · exact ⟨_, s.status.startPend, e, fun _ => ⟨rfl, rfl⟩, .inl⟩
  | start =>
    obtain ⟨hu, hw, e⟩ | ⟨-, e⟩ := acceptStart_cases cfg s
    · exact ⟨s.plan, true, e, by simp [hu], fun _ => .inr hw⟩
    · exact ⟨s.plan, s.status.startPend, e, fun _ => ⟨rfl, rfl⟩, .inl⟩

/-- What the host's next step can do: the effect of one bus command, and one command less to come (rules R5, R104). -/
theorem hostNext_cases (cfg : Config.Params) (s : State) :
    ∃ p b, hostNext cfg s = { s with plan := p, status.startPend := b, hostProgram := s.hostProgram.tail }
      ∧ (unlocked s = false → p = s.plan ∧ b = s.status.startPend)
      ∧ (b = true → s.status.startPend = true ∨ planWf cfg p = true) := by
  cases h : s.hostProgram with
  | nil =>
    refine ⟨s.plan, s.status.startPend, ?_, fun _ => ⟨rfl, rfl⟩, .inl⟩
    rw [hostNext_nil cfg h]
    show s = { s with hostProgram := [] }
    rw [← h]
  | cons c cs =>
    obtain ⟨p, b, e, hl, hb⟩ := commitCommand_cases cfg c { s with hostProgram := cs }
    exact ⟨p, b, by rw [hostNext_cons cfg h, e]; rfl, hl, hb⟩

/-- A transition of the clock tree acts when enabled and changes nothing otherwise (rules R160 to R162). -/
theorem envStep_cases (e : EnvEvent) (s : State) :
    (envEnabled e s = true ∧ envStep e s = envEffect e s) ∨ (envEnabled e s = false ∧ envStep e s = s) := by
  unfold envStep
  cases h : envEnabled e s with
  | true => exact .inl ⟨rfl, rfl⟩
  | false => exact .inr ⟨rfl, rfl⟩

/-- Drawing a move changes the schedule and the draw counter only. -/
theorem draw_state (s : State) :
    ∃ ms n, (draw s).2 = { s with schedule := ms, draws := n } := by
  unfold draw
  cases h : s.schedule with
  | nil => exact ⟨[], s.draws + 1, rfl⟩
  | cons m ms => exact ⟨ms, s.draws, rfl⟩

/-- What a move can do: the sequencer's instruction, a decoded host command, the first command of a `COMMIT` or the next one of a
`COMMIT` under way, a transition of the clock tree, or reset where no commit is running. -/
theorem applyMove_cases {m : Move} {s t : State} (h : applyMove m s = .next t) :
    (m = .seq ∧ exec (decodeUop s.status.state) s = .next t)
    ∨ (∃ tr i, m = .host tr ∧ decodeHost tr = .ok i ∧ exec i s = .next t)
    ∨ (∃ p, m = .commit p ∧ exec (.commit p) s = .next t)
    ∨ (m = .hostNext ∧ t = hostNext Config.params s)
    ∨ (∃ e, m = .env e ∧ t = envStep e s)
    ∨ (m = .reset ∧ committing s = false ∧ t = resetBlock Config.params s) := by
  cases m with
  | seq => exact .inl ⟨rfl, h⟩
  | host tr =>
    simp only [applyMove] at h
    split at h
    · exact .inr (.inl ⟨tr, _, rfl, ‹_›, h⟩)
    · cases h
  | commit p => exact .inr (.inr (.inl ⟨p, rfl, h⟩))
  | hostNext => exact .inr (.inr (.inr (.inl ⟨rfl, (Host.Outcome.next.inj h).symm⟩)))
  | env e => exact .inr (.inr (.inr (.inr (.inl ⟨e, rfl, (Host.Outcome.next.inj h).symm⟩))))
  | reset =>
    simp only [applyMove] at h
    split at h
    · cases h
    · rename_i hc
      exact .inr (.inr (.inr (.inr (.inr ⟨rfl, by simpa using hc, by simpa using h.symm⟩))))

/-- What a host command can do (rules R100 to R104): while unlocked, a new plan, and `START_PEND` set where that plan is `wf`; in
any state, a word delivered to the host, and the commands of a `COMMIT` it has begun; nothing else. -/
theorem host_exec_cases {i : Instr} {s t : State} (hf : formatOf i ≠ .uop) (h : exec i s = .next t) :
    ∃ p b w q, t = { s with plan := p, status.startPend := b, hostRdata := w, hostProgram := q }
      ∧ (unlocked s = false → p = s.plan ∧ b = s.status.startPend)
      ∧ (b = true → s.status.startPend = true ∨ planWf Config.params p = true) := by
  cases i with
  | rdreg o =>
    exact ⟨s.plan, s.status.startPend, _, s.hostProgram, (Host.Outcome.next.inj h).symm, fun _ => ⟨rfl, rfl⟩, .inl⟩
  | wrplan r v =>
    obtain rfl := Host.Outcome.next.inj h
    obtain ⟨p, b, e, hl, hb⟩ := commitCommand_cases Config.params (.write r v) s
    exact ⟨p, b, s.hostRdata, s.hostProgram, e, hl, hb⟩
  | start =>
    obtain rfl := Host.Outcome.next.inj h
    obtain ⟨p, b, e, hl, hb⟩ := commitCommand_cases Config.params .start s
    exact ⟨p, b, s.hostRdata, s.hostProgram, e, hl, hb⟩
  | wrign o v =>
    exact ⟨s.plan, s.status.startPend, s.hostRdata, s.hostProgram, (Host.Outcome.next.inj h).symm, fun _ => ⟨rfl, rfl⟩, .inl⟩
  | commit p =>
    obtain rfl := Host.Outcome.next.inj h
    obtain ⟨q, b, e, hl, hb⟩ := hostNext_cases Config.params { s with hostProgram := s.hostProgram ++ commitCommands p }
    exact ⟨q, b, s.hostRdata, _, e, hl, hb⟩
  | _ => exact absurd rfl hf

/-! ## The dump (rule R63) -/

/-- Cells at rising addresses, none zero, are in canonical form. -/
theorem memory_wf_of_pairwise {m : List Host.Cell} (hz : ∀ c ∈ m, c.2 ≠ 0#8)
    (hp : m.Pairwise fun c d => c.1 < d.1) : Memory.wf m = true := by
  induction m with
  | nil => rfl
  | cons c rest ih =>
    cases rest with
    | nil => simp [Memory.wf, hz c (by simp)]
    | cons d rest =>
      rw [List.pairwise_cons] at hp
      have := ih (fun x hx => hz x (by simp [hx])) hp.2
      simp [Memory.wf, hz c (by simp), hp.1 d (by simp), this]

/-- Every dump is in canonical form, whatever the state. -/
theorem dump_wf (cfg : Config.Params) (s : State) : Memory.wf (dump cfg s) = true := by
  apply memory_wf_of_pairwise
  · intro c hc
    simp only [dump, List.mem_filterMap] at hc
    obtain ⟨k, -, hk⟩ := hc
    split at hk
    · cases hk
    · cases hk; assumption
  · unfold dump
    refine List.Pairwise.filterMap _ ?_ List.pairwise_lt_range
    intro a b hab c hc d hd
    split at hc
    · cases hc
    · split at hd
      · cases hd
      · cases hc; cases hd; simpa using hab

end Sys2Proof.Machine
end

