-- ==== Sys2Proof/Laws/Commit.lean ====
section
/-! SUPPORT. The eight host steps of a `COMMIT` (rule R104): what its commands do one after the other, and that as many `hostNext`
moves as there are commands to come issue them all. -/

namespace Sys2Proof.Machine

/-- The eight commands of a `COMMIT`, one after the other, store the whole plan and start it iff it is `wf`, or, while locked,
change nothing (rule R104). -/
theorem commitCommands_run (cfg : Config.Params) (p : Plan) (s : State) :
    (commitCommands p).foldl (fun t c => commitCommand cfg c t) s
      = if unlocked s then { s with plan := p, status.startPend := planWf cfg p } else s := by
  have hw : (PlanReg.all.map fun r => CommitCommand.write r (p.get r)).foldl (fun t c => commitCommand cfg c t) s
      = if unlocked s then { s with plan := p } else s := by
    cases h : unlocked s with
    | true =>
      have hu : ∀ q : Plan, unlocked { s with plan := q } = true := fun _ => h
      simp only [PlanReg.all, List.map, List.foldl, commitCommand, writePlan, h, hu, if_true]
      rfl
    | false => simp [PlanReg.all, commitCommand, writePlan, h]
  rw [commitCommands, List.foldl_append, hw]
  cases h : unlocked s with
  | true =>
    have hu : unlocked { s with plan := p } = true := h
    have hp : s.status.startPend = false := by simp [unlocked] at h; exact h.2
    cases h' : planWf cfg p with
    | true => simp [commitCommand, acceptStart, hu, h']
    | false => simp [commitCommand, acceptStart, h', ← hp]
  | false => simp [commitCommand, acceptStart, h]

/-- A bus command of a `COMMIT` neither reads nor writes the commands to come. -/
theorem commitCommand_hostProgram (cfg : Config.Params) (c : CommitCommand) (s : State) (q : List CommitCommand) :
    commitCommand cfg c { s with hostProgram := q } = { commitCommand cfg c s with hostProgram := q } := by
  cases c with
  | write r v =>
    show (if unlocked s then _ else _) = { (if unlocked s then _ else _ : State) with hostProgram := q }
    cases unlocked s <;> rfl
  | start =>
    show (if unlocked s && planWf cfg s.plan then _ else _)
      = { (if unlocked s && planWf cfg s.plan then _ else _ : State) with hostProgram := q }
    cases unlocked s && planWf cfg s.plan <;> rfl

/-- Nor do several of them, one after the other. -/
theorem commitCommands_hostProgram (cfg : Config.Params) (cs : List CommitCommand) (s : State) (q : List CommitCommand) :
    cs.foldl (fun t c => commitCommand cfg c t) { s with hostProgram := q }
      = { cs.foldl (fun t c => commitCommand cfg c t) s with hostProgram := q } := by
  induction cs generalizing s with
  | nil => rfl
  | cons c cs ih => rw [List.foldl_cons, commitCommand_hostProgram, ih, List.foldl_cons]

/-- As many `hostNext` moves as there are commands to come issue them all, in order (rules R5, R104). -/
theorem runMoves_hostNext (cs : List CommitCommand) (s : State) :
    runMoves (List.replicate cs.length .hostNext) { s with hostProgram := cs }
      = .next { cs.foldl (fun t c => commitCommand Config.params c t) s with hostProgram := [] } := by
  induction cs generalizing s with
  | nil => rfl
  | cons c cs ih =>
    rw [List.length_cons, List.replicate_succ, List.foldl_cons, ← ih]
    show runMoves _ (commitCommand Config.params c { s with hostProgram := cs }) = _
    rw [commitCommand_hostProgram]

end Sys2Proof.Machine
end

