-- ==== Sys2Proof/Laws/Decode.lean ====
section
/-! SUPPORT. What the parts of the decoder and the encoder do, said once: bytes and numbers, packed transactions, plan words, and
the tables of word indices. -/

namespace Sys2Proof

/-! ## Bytes (rule R63) -/

@[simp] theorem leBytes_length (n w : Nat) : (leBytes n w).length = n := by
  induction n generalizing w with
  | zero => rfl
  | succ n ih => simp [leBytes, ih]

theorem ofLeBytes_leBytes (n w : Nat) : ofLeBytes (leBytes n w) = w % 256 ^ n := by
  induction n generalizing w with
  | zero => simp [leBytes, ofLeBytes, Nat.mod_one]
  | succ n ih =>
    simp only [leBytes, ofLeBytes, ih, BitVec.toNat_ofNat]
    rw [show 2 ^ 8 = 256 from rfl, pow_succ', Nat.mod_mul]

theorem leBytes_ofLeBytes (b : List Byte) : leBytes b.length (ofLeBytes b) = b := by
  induction b with
  | nil => rfl
  | cons x xs ih =>
    have hx := x.isLt
    have e : (x.toNat + 256 * ofLeBytes xs) / 256 = ofLeBytes xs := by omega
    simp only [List.length, leBytes, ofLeBytes, e, ih]
    congr 1
    apply BitVec.eq_of_toNat_eq
    simp only [BitVec.toNat_ofNat]
    omega

theorem ofLeBytes_lt (b : List Byte) : ofLeBytes b < 256 ^ b.length := by
  induction b with
  | nil => simp [ofLeBytes]
  | cons x xs ih =>
    have hx := x.isLt
    simp only [ofLeBytes, List.length, pow_succ']
    omega

/-- A word below other bits adds to them. -/
theorem or_word (x : Nat) (y : Word) : x * 2 ^ 32 ||| y.toNat = x * 2 ^ 32 + y.toNat := by
  rw [mul_comm]
  exact (Nat.two_pow_add_eq_or_of_lt y.isLt x).symm

/-! ## Plans (rules R83, R92) -/

theorem planOfNat_planBits (p : Plan) : planOfNat (planBits p).toNat = p := by
  obtain ⟨c, a1, a2, a3, a4, a5, a6⟩ := p
  have := c.isLt
  have := a1.isLt
  have := a2.isLt
  have := a3.isLt
  have := a4.isLt
  have := a5.isLt
  have := a6.isLt
  simp only [planOfNat, planBits, BitVec.toNat_append, Nat.shiftLeft_eq, Nat.shiftRight_eq_div_pow, or_word]
  congr 1
  · apply BitVec.eq_of_toNat_eq; simp only [BitVec.toNat_ofNat]; omega
  · congr 1 <;> (apply BitVec.eq_of_toNat_eq; simp only [BitVec.toNat_ofNat]; omega)

theorem planBits_planOfNat {n : Nat} (h : n < 2 ^ 224) : (planBits (planOfNat n)).toNat = n := by
  simp only [planOfNat, planBits, BitVec.toNat_append, Nat.shiftLeft_eq, or_word]
  simp only [BitVec.toNat_ofNat, Nat.shiftRight_eq_div_pow]
  omega

/-! ## Transactions (rule R84) -/

/-- A packed transaction as a number: direction, offset, data. -/
theorem packTransaction_toNat (d : Dir) (o w : Nat) (v : Word) (ho : o < 128) :
    (packTransaction { dir := d, off := o, width := w, data := v }).toNat
      = (if d = .write then 2 ^ 39 else 0) + o * 2 ^ 32 + v.toNat := by
  have key : ∀ x < 128, 128 ||| x = 128 + x := by decide
  simp only [packTransaction, BitVec.toNat_append, Nat.shiftLeft_eq, or_word, BitVec.toNat_ofNat, BitVec.toNat_ofBool]
  rw [Nat.mod_eq_of_lt (show o < 2 ^ 7 from ho)]
  cases d with
  | read =>
    rw [show ((Dir.read == Dir.write).toNat * 2 ^ 7) = 0 from rfl]
    simp
  | write =>
    rw [show ((Dir.write == Dir.write).toNat * 2 ^ 7) = 128 from rfl, key o ho]
    simp only [if_true]
    omega

/-- The fields of a packed transaction, read from the number. -/
theorem unpackTransaction_ofNat (n : Nat) :
    unpackTransaction (BitVec.ofNat 40 n)
      = { dir := if n.testBit 39 then .write else .read, off := n / 2 ^ 32 % 128, width := 4, data := BitVec.ofNat 32 n } := by
  simp only [unpackTransaction, BitVec.extractLsb'_toNat, BitVec.toNat_ofNat, Nat.shiftRight_eq_div_pow]
  congr 1
  · rw [BitVec.getLsbD_ofNat]; simp
  · omega
  · apply BitVec.eq_of_toNat_eq
    simp only [BitVec.extractLsb'_toNat, BitVec.toNat_ofNat, Nat.shiftRight_eq_div_pow]
    omega

theorem unpackTransaction_packTransaction (d : Dir) (o : Nat) (v : Word) (ho : o < 128) :
    unpackTransaction (packTransaction { dir := d, off := o, width := 4, data := v })
      = { dir := d, off := o, width := 4, data := v } := by
  have hv := v.isLt
  have e := packTransaction_toNat d o 4 v ho
  have hn := BitVec.ofNat_toNat 40 (packTransaction { dir := d, off := o, width := 4, data := v })
  rw [BitVec.setWidth_eq] at hn
  rw [← hn, unpackTransaction_ofNat, e]
  cases d with
  | read =>
    have hb : (o * 2 ^ 32 + v.toNat).testBit 39 = false := Nat.testBit_lt_two_pow (by omega)
    simp only [reduceCtorEq, if_false, Nat.zero_add, hb, Bool.false_eq_true]
    congr 1
    · omega
    · apply BitVec.eq_of_toNat_eq; simp only [BitVec.toNat_ofNat]; omega
  | write =>
    have hb : (2 ^ 39 + o * 2 ^ 32 + v.toNat).testBit 39 = true := by
      rw [Nat.add_assoc, Nat.testBit_two_pow_add_eq, Nat.testBit_lt_two_pow (by omega)]
      rfl
    simp only [if_true, hb]
    congr 1
    · omega
    · apply BitVec.eq_of_toNat_eq; simp only [BitVec.toNat_ofNat]; omega

/-! ## The tables -/

/-- The 16 values of `STATE`, for a case split on the micro-operation (rule R81). -/
theorem state_cases (c : BitVec 4) :
    c = 0#4 ∨ c = 1#4 ∨ c = 2#4 ∨ c = 3#4 ∨ c = 4#4 ∨ c = 5#4 ∨ c = 6#4 ∨ c = 7#4 ∨ c = 8#4 ∨ c = 9#4 ∨ c = 10#4 ∨ c = 11#4
      ∨ c = 12#4 ∨ c = 13#4 ∨ c = 14#4 ∨ c = 15#4 := by
  revert c; decide

/-- A plan register stands at its own word index (rule R60). -/
@[simp] theorem planRegAt_planRegIndex (r : PlanReg) : planRegAt (planRegIndex r) = some r := by
  rcases r with _ | r
  · rfl
  · cases r <;> rfl

/-- Words 8 to 14 are the plan registers (rule R60). -/
theorem planRegAt_eq_none (o : BitVec 5) : planRegAt o = none ↔ ¬ (8 ≤ o.toNat ∧ o.toNat ≤ 14) := by
  revert o; decide

/-- An aligned 32-bit transaction inside the space is admitted (rule R62). -/
theorem decodeHost_word (d : Dir) (o : BitVec 5) (v : Word) :
    decodeHost { dir := d, off := 4 * o.toNat, width := 4, data := v }
      = .ok (match d with | .read => .rdreg o | .write => decodeWrite o v) := by
  have ho := o.isLt
  have e : BitVec.ofNat 5 (4 * o.toNat / 4) = o := by rw [Nat.mul_div_cancel_left _ (by norm_num)]; simp
  unfold decodeHost
  rw [if_neg (by simp), if_neg (by simp; omega), if_neg (by simp)]
  cases d <;> simp only [e]

/-- No host transaction decodes to a micro-operation or to `COMMIT`. -/
theorem decodeHost_format {t : Transaction} {i : Instr} (h : decodeHost t = .ok i) : formatOf i = .host := by
  unfold decodeHost at h
  split_ifs at h
  split at h <;> cases h
  · rfl
  · unfold decodeWrite
    split
    · rfl
    · split_ifs <;> rfl

end Sys2Proof
end

