-- ==== Sys2Proof/Laws/PerInstr.lean ====
section
/-! SUPPORT. Statements about every instruction as syntax, one lemma per constructor: `EncodeLength`, the number of bytes an
instruction is encoded in is its format's (rules R80, R81, R83, R84). -/

namespace Sys2Proof.Laws.EncodeLength

open Sys2Proof

/-- The encoding of `i` has the length of its format: 1 byte for a `UOP`, 5 for a `HOST`, 28 for a `PLAN`. -/
def Statement (i : Instr) : Prop := (encode i).length = formatBytes (formatOf i)

theorem idle : Statement .idle := rfl
theorem hseEn : Statement .hseEn := rfl
theorem hseWait : Statement .hseWait := rfl
theorem pllCfg : Statement .pllCfg := rfl
theorem pllEn : Statement .pllEn := rfl
theorem pllWait : Statement .pllWait := rfl
theorem flashWs : Statement .flashWs := rfl
theorem prescPre : Statement .prescPre := rfl
theorem swSet : Statement .swSet := rfl
theorem swWait : Statement .swWait := rfl
theorem prescPost : Statement .prescPost := rfl
theorem emit : Statement .emit := rfl
theorem done : Statement .done := rfl
theorem failed : Statement .failed := rfl
theorem rsvd14 : Statement .rsvd14 := rfl
theorem rsvd15 : Statement .rsvd15 := rfl
theorem rdreg (o : BitVec 5) : Statement (.rdreg o) := leBytes_length _ _
theorem wrplan (r : PlanReg) (v : Word) : Statement (.wrplan r v) := leBytes_length _ _
theorem start : Statement .start := leBytes_length _ _
theorem wrign (o : BitVec 5) (v : Word) : Statement (.wrign o v) := leBytes_length _ _
theorem commit (p : Plan) : Statement (.commit p) := leBytes_length _ _

end Sys2Proof.Laws.EncodeLength
end

