-- ==== Sys2Proof/Laws/Plan.lean ====
section
/-! SUPPORT. What `wf` and the plan predicates give, said once (rules R85, R88), and that every ratio of rule R35 is positive. -/

namespace Sys2Proof.Machine

/-- A `wf` plan has no reserved source, and its fields for absent features are the hardwired 0 (rules R27, R88). -/
theorem planWf_fields {cfg : Config.Params} {p : Plan} (h : planWf cfg p = true) :
    p.src ≠ 0b11#2 ∧ wirePlldiv cfg p.plldiv = p.plldiv ∧ wireUsbpre cfg p.usbpre = p.usbpre := by
  simp only [planWf, Bool.and_eq_true, Bool.or_eq_true, bne_iff_ne] at h
  obtain ⟨⟨⟨⟨⟨⟨⟨⟨⟨⟨-, h1⟩, -⟩, h2⟩, h3⟩, -⟩, -⟩, -⟩, -⟩, -⟩, -⟩ := h
  refine ⟨h1, ?_, ?_⟩
  · unfold wirePlldiv
    rcases h3 with h | h <;> simp_all
  · unfold wireUsbpre
    rcases h2 with h | h <;> simp_all

/-- Where the PLL is not selected, the external oscillator is selected iff it is the source (rule R85). -/
theorem extSelected_of_direct {p : Plan} (h : p.pllSelected = false) : p.extSelected = (p.src == 0b01#2) := by
  simp_all [Plan.extSelected, Plan.pllSelected]

theorem hdiv_pos (c : BitVec 4) : 0 < hdiv c := by revert c; decide
theorem pdiv_pos (c : BitVec 3) : 0 < pdiv c := by revert c; decide
theorem pllmul_pos (c : BitVec 4) : 0 < pllmul c := by revert c; decide
theorem plldiv_pos (c : Bool) : 0 < plldiv c := by revert c; decide

/-- The root oscillator has a frequency (rule R7). -/
theorem rootFreq_pos (cfg : Config.Params) (p : Plan) : 0 < rootFreq cfg p := by
  unfold rootFreq
  split_ifs
  · exact cfg.fExt_range.1
  · exact cfg.fInt_range.1

end Sys2Proof.Machine
end

