-- ==== Sys2Proof/Tests/Slice0.lean ====
section
/-! SUPPORT. The model's own tests. Expected results are the vectors of spec/95_test_vectors.md (ids S, A, E, H, M, V, P), on the
reference instantiation REF72; then, for every statement with hypotheses, a state and operands that meet them. -/

namespace Sys2Proof.Tests

open Sys2Proof Sys2Proof.Machine

/-! ## Helpers -/

/-- What `f` sees of a next state. -/
def after {α : Type} (r : Result) (f : State → α) : Option α :=
  match r with
  | .next t => some (f t)
  | _ => none

/-- The reset state of REF72. -/
def s0 : State := State.resetWith Config.ref72

/-- Six frequencies with no PLL and no USB clock. -/
def freqs (a b c d : Nat) : Freqs :=
  { sysclk := BitVec.ofNat 32 a, ahb := BitVec.ofNat 32 b, apb1 := BitVec.ofNat 32 c, apb2 := BitVec.ofNat 32 d, pll := 0#32,
    usb := 0#32 }

/-- The frequencies of program P1. -/
def freqsP1 : Freqs := { freqs 72000000 72000000 36000000 72000000 with pll := 72000000#32, usb := 48000000#32 }

/-- Word 0 `c` with four frequencies of 8 MHz. -/
def plan8M (c : Word) : Plan := { cfg := c, f := freqs 8000000 8000000 8000000 8000000 }

/-- The plan of programs P1 and P5, word 0 as E1. -/
def planP1 : Plan := { cfg := 0x049C0402#32, f := freqsP1 }

/-- The plan of program P4, word 0 as E2. -/
def planP4 : Plan := { cfg := 0x049D0402#32, f := freqsP1 }

/-- The plan of program P3. -/
def planP3 : Plan := { cfg := 0x01000001#32, f := freqs 4000000 4000000 4000000 4000000 }

/-- The reset state with the sequencer at code `c` and the plan `p`. -/
def inState (c : BitVec 4) (p : Plan) : State := { s0 with plan := p, status.state := c }

/-- The reset state with plan `p` and a start pending. -/
def pending (p : Plan) : State := { s0 with plan := p, status.startPend := true }

/-! ## Well-formedness: an ill-formed term for each check -/

theorem test_wrign_of_a_plan_word_is_ill_formed :
    (Instr.wrign 8#5 0#32).wellFormed = false ∧ (Instr.wrign 14#5 0#32).wellFormed = false
      ∧ (Instr.wrign 7#5 0#32).wellFormed = true ∧ (Instr.wrign 15#5 0#32).wellFormed = true := by decide

theorem test_wrign_of_a_start_is_ill_formed :
    (Instr.wrign 4#5 1#32).wellFormed = false ∧ (Instr.wrign 4#5 0xFFFFFFFE#32).wellFormed = true := by decide

theorem test_commit_with_a_reserved_bit_is_ill_formed :
    (Instr.commit (plan8M 0x10000001#32)).wellFormed = false ∧ (Instr.commit (plan8M 0x00004001#32)).wellFormed = false
      ∧ (Instr.commit (plan8M 0x00000005#32)).wellFormed = false ∧ (Instr.commit planP1).wellFormed = true := by decide

/-! ## Decoding: words written out from rules R81, R82, R84 -/

theorem test_decode_uop_codes :
    decode .uop [0x00#8] = .ok .idle ∧ decode .uop [0x01#8] = .ok .hseEn ∧ decode .uop [0x02#8] = .ok .hseWait
      ∧ decode .uop [0x03#8] = .ok .pllCfg ∧ decode .uop [0x04#8] = .ok .pllEn ∧ decode .uop [0x05#8] = .ok .pllWait
      ∧ decode .uop [0x06#8] = .ok .flashWs ∧ decode .uop [0x07#8] = .ok .prescPre ∧ decode .uop [0x08#8] = .ok .swSet
      ∧ decode .uop [0x09#8] = .ok .swWait ∧ decode .uop [0x0A#8] = .ok .prescPost ∧ decode .uop [0x0B#8] = .ok .emit
      ∧ decode .uop [0x0C#8] = .ok .done ∧ decode .uop [0x0D#8] = .ok .failed ∧ decode .uop [0x0E#8] = .ok .rsvd14
      ∧ decode .uop [0x0F#8] = .ok .rsvd15 := by
  refine ⟨?_, ?_, ?_, ?_, ?_, ?_, ?_, ?_, ?_, ?_, ?_, ?_, ?_, ?_, ?_, ?_⟩ <;> rfl

theorem test_decode_uop_rejects :
    decode .uop [0x13#8] = .error .uopHighBits ∧ decode .uop [] = .error .uopLength
      ∧ decode .uop [0x00#8, 0x00#8] = .error .uopLength := by
  refine ⟨?_, ?_, ?_⟩ <;> rfl

/-- Rule R84: `dir ++ off[6:0] ++ data`, the reads at 0x48 and 0x7C, the write of 72000000 to 0x24, `START`. -/
theorem test_decode_host :
    decode .host [0x00#8, 0x00#8, 0x00#8, 0x00#8, 0x48#8] = .ok (.rdreg 18#5)
      ∧ decode .host [0xFF#8, 0xFF#8, 0xFF#8, 0xFF#8, 0x7C#8] = .ok (.rdreg 31#5)
      ∧ decode .host [0x00#8, 0xA2#8, 0x4A#8, 0x04#8, 0xA4#8] = .ok (.wrplan (.freq .sysclk) 72000000#32)
      ∧ decode .host [0x02#8, 0x04#8, 0x9C#8, 0x04#8, 0xA0#8] = .ok (.wrplan .cfg 0x049C0402#32)
      ∧ decode .host [0x01#8, 0x00#8, 0x00#8, 0x00#8, 0x90#8] = .ok .start := by
  refine ⟨?_, ?_, ?_, ?_, ?_⟩ <;> rfl

/-- H14, H13: at `CTRL` only `data[0]` tells `START` from an ignored write. -/
theorem test_decode_ctrl_write :
    decodeHost ⟨.write, 0x10, 4, 0xFFFFFFFF#32⟩ = .ok .start
      ∧ decodeHost ⟨.write, 0x10, 4, 0xFFFFFFFE#32⟩ = .ok (.wrign 4#5 0xFFFFFFFE#32)
      ∧ decodeHost ⟨.write, 0x10, 4, 0#32⟩ = .ok (.wrign 4#5 0#32) := by
  refine ⟨?_, ?_, ?_⟩ <;> rfl

/-- H11, H12: a write to a read-only or unmapped word is a `WRIGN`. -/
theorem test_decode_ignored_writes :
    ([0x00, 0x04, 0x08, 0x0C, 0x14, 0x18, 0x1C, 0x3C, 0x40, 0x44, 0x48, 0x4C, 0x50, 0x54, 0x58, 0x7C].all fun o =>
      match decodeHost ⟨.write, o, 4, 2#32⟩ with
      | .ok (.wrign _ _) => true
      | _ => false) = true := by decide

/-- H17: the accesses rule R62 does not admit. -/
theorem test_decode_host_rejects :
    decodeHost ⟨.read, 0x10, 1, 0#32⟩ = .error .hostWidth ∧ decodeHost ⟨.write, 0x20, 2, 0#32⟩ = .error .hostWidth
      ∧ decodeHost ⟨.read, 0x02, 4, 0#32⟩ = .error .hostMisaligned ∧ decodeHost ⟨.read, 0x80, 4, 0#32⟩ = .error .hostOutside
      ∧ decode .host [0x00#8, 0x00#8, 0x00#8, 0x00#8] = .error .hostLength := by
  refine ⟨?_, ?_, ?_, ?_, ?_⟩ <;> rfl

/-- Program P1's seven words, and E6: a reserved bit of word 0. -/
theorem test_decode_plan :
    decodeTableWord 224 0x02DC6C00044AA200044AA20002255100044AA200044AA200049C0402 = some (.commit planP1)
      ∧ decodeTableWord 224 0x10000001 = none ∧ decodeTableWord 224 0x00004001 = none ∧ decodeTableWord 224 0x00000005 = none
      ∧ decode .plan [0x01#8] = .error .planLength := by decide

/-! ## Operands: vectors E1 to E5, E8 to E13 -/

theorem test_plan_fields_E1 :
    planP1.src = 0b10#2 ∧ planP1.hpre = 0#4 ∧ planP1.ppre1 = 0b100#3 ∧ planP1.ppre2 = 0#3 ∧ planP1.pllin = false
      ∧ planP1.plldiv = false ∧ planP1.pllmul = 0b0111#4 ∧ planP1.usbpre = false ∧ planP1.usbEn = true ∧ planP1.hsebyp = false
      ∧ planP1.ws = 0b010#3 := by decide

theorem test_plan_predicates :
    (planP1.pllSelected, planP1.extSelected) = (true, false) ∧ (planP4.pllSelected, planP4.extSelected) = (true, true)
      ∧ (planP3.pllSelected, planP3.extSelected, planP3.hsebyp) = (false, true, true)
      ∧ ((plan8M 0x2880#32).pllSelected, (plan8M 0x2880#32).extSelected) = (false, false) := by decide

theorem test_raise_first_E13 :
    raiseFirst (inState 6#4 (plan8M 0#32)) = true
      ∧ raiseFirst (inState 6#4 { cfg := 0#32, f := freqs 7999999 1 1 1 }) = false
      ∧ raiseFirst (inState 6#4 planP1) = true := by decide

theorem test_status_words :
    statusWord (pending planP1).status = 0x40#32 ∧ statusWord (inState 3#4 planP1).status = 0x83#32
      ∧ statusWord { s0.status with state := 12#4, fcValid := true, fcPllValid := true, fcUsbValid := true } = 0x70C#32
      ∧ statusWord { s0.status with state := 13#4, err := 3#2 } = 0x3D#32 := by decide

/-! ## Host commands -/

/-- H1, H2. -/
theorem test_wrplan_stores :
    after (execWrplan (.freq .sysclk) 72000000#32 s0) (fun t => t) = some { s0 with plan.f.sysclk := 0x044AA200#32 }
      ∧ after (execWrplan .cfg 0xFFFFFFFF#32 s0) (fun t => memRead Config.ref72 t 8#5) = some 0xFFFFFFFF#32 := by decide

/-- H8, H9. -/
theorem test_wrplan_locked :
    after (execWrplan .cfg 0#32 (pending planP1)) (fun t => t) = some (pending planP1)
      ∧ after (execWrplan (.freq .usb) 1#32 (inState 5#4 planP1)) (fun t => t) = some (inState 5#4 planP1) := by decide

/-- H3 to H7, H18, H19. -/
theorem test_start_checks_the_plan :
    after (execStart s0 Config.ref72) (fun t => statusWord t.status) = some 0#32
      ∧ after (execStart (inState 0#4 (plan8M 3#32)) Config.ref72) (fun t => statusWord t.status) = some 0#32
      ∧ after (execStart (inState 0#4 (plan8M 0x06000001#32)) Config.ref72) (fun t => statusWord t.status) = some 0#32
      ∧ after (execStart (inState 0#4 planP1) Config.ref72) (fun t => t) = some (pending planP1)
      ∧ after (execStart (inState 0#4 { planP1 with f.pll := 0#32 }) Config.ref72) (fun t => statusWord t.status) = some 0#32
      ∧ after (execStart (inState 0#4 { planP1 with f.usb := 0#32 }) Config.ref72) (fun t => statusWord t.status)
        = some 0#32 := by decide

/-- H7, H9, H10. -/
theorem test_start_is_once :
    after (execStart (pending planP1) Config.ref72) (fun t => t) = some (pending planP1)
      ∧ after (execStart (inState 5#4 planP1) Config.ref72) (fun t => t) = some (inState 5#4 planP1)
      ∧ after (execStart (inState 12#4 planP1) Config.ref72) (fun t => t) = some (inState 12#4 planP1)
      ∧ after (execStart (inState 13#4 planP1) Config.ref72) (fun t => t) = some (inState 13#4 planP1) := by decide

/-- H15, H16. -/
theorem test_rdreg :
    ([4#5, 3#5, 15#5, 22#5, 31#5].all fun o =>
        after (execRdreg o (inState 11#4 planP1) Config.ref72) (fun t => t.hostRdata) = some 0#32) = true
      ∧ after (execRdreg 18#5 { s0 with fc := freqsP1 } Config.ref72) (fun t => t.hostRdata) = some 0x02255100#32
      ∧ after (execRdreg 7#5 s0 Config.ref72) (fun t => t.hostRdata) = some 8000000#32 := by decide

/-- H11. -/
theorem test_wrign : after (execWrign 1#5 2#32 s0) (fun t => t) = some s0 := by decide

/-- Rule R104: the first host step of a `COMMIT` stores word 0 only and leaves seven commands; the eight launch program P1; a plan
that is not `wf` is stored and not started. -/
theorem test_commit :
    let eight (p : Plan) := after (execCommit p s0 Config.ref72) fun t => (List.range 7).foldl (fun u _ => hostNext Config.ref72 u) t
    after (execCommit planP1 s0 Config.ref72) (fun t => (t.plan, t.status.startPend, t.hostProgram.length))
        = some ({ s0.plan with cfg := 0x049C0402#32 }, false, 7)
      ∧ eight planP1 = some (pending planP1) ∧ eight (plan8M 3#32) = some (inState 0#4 (plan8M 3#32)) := by decide

/-! ## Micro-operations: vectors M1 to M36 -/

/-- M1 to M4. -/
theorem test_idle :
    after (execIdle s0) (fun t => t) = some s0
      ∧ after (execIdle (pending planP1)) (fun t => statusWord t.status) = some 0x83#32
      ∧ after (execIdle (pending planP4)) (fun t => statusWord t.status) = some 0x81#32
      ∧ after (execIdle (pending planP3)) (fun t => statusWord t.status) = some 0x81#32
      ∧ after (execIdle (pending (plan8M 0x2880#32))) (fun t => statusWord t.status) = some 0x86#32 := by decide

/-- M5, M6. -/
theorem test_hseEn :
    after (execHseEn { inState 1#4 (plan8M 1#32) with cnt := 7#32 }) (fun t => (crWord t.cr, t.cnt, t.status.state))
        = some (0x00010000#32, 0#32, 2#4)
      ∧ after (execHseEn (inState 1#4 planP3)) (fun t => (crWord t.cr, t.status.state)) = some (0x00050000#32, 2#4) := by decide

/-- M7 to M9. -/
theorem test_hseWait_polls :
    after (execHseWait { inState 2#4 planP3 with cr.hserdy := true } Config.ref72) (fun t => (t.status.state, t.cnt))
        = some (6#4, 0#32)
      ∧ after (execHseWait { inState 2#4 planP4 with cr.hserdy := true, cnt := 3#32 } Config.ref72)
          (fun t => (t.status.state, t.cnt)) = some (3#4, 3#32)
      ∧ after (execHseWait { inState 2#4 planP3 with cnt := 2#32 } Config.ref72) (fun t => (t.status.state, t.cnt))
        = some (2#4, 3#32) := by decide

/-- M10, M11. -/
theorem test_hseWait_times_out :
    after (execHseWait { inState 2#4 planP3 with cnt := 3#32 } Config.ref72) (fun t => (statusWord t.status, t.cnt))
        = some (0x1D#32, 3#32)
      ∧ after (execHseWait (inState 2#4 planP3) { nOsc := 1 }) (fun t => statusWord t.status) = some 0x1D#32 := by decide

/-- M12 to M14; `PLLXTPRE` stays 0 where the variant has no PLL input division (rule R27). -/
theorem test_pllCfg :
    after (execPllCfg (inState 3#4 planP1) Config.ref72) (fun t => (cfgrWord Config.ref72 t.cfgr, t.status.state))
        = some (0x001C0000#32, 4#4)
      ∧ after (execPllCfg (inState 3#4 planP4) Config.ref72) (fun t => cfgrWord Config.ref72 t.cfgr) = some 0x001D0000#32
      ∧ after (execPllCfg (inState 3#4 (plan8M 0x003F0002#32)) Config.ref72) (fun t => cfgrWord Config.ref72 t.cfgr)
        = some 0x003F0000#32
      ∧ after (execPllCfg (inState 3#4 (plan8M 0x003F0002#32)) { hasPlldiv := false })
          (fun t => cfgrWord { hasPlldiv := false } t.cfgr) = some 0x003D0000#32 := by decide

/-- M15: the fault U1. -/
theorem test_pllCfg_faults_while_running :
    (match execPllCfg { inState 3#4 planP1 with cr.pllon := true } Config.ref72 with
      | .fault .pllParamsWhileRunning => true
      | _ => false) = true := by decide

/-- M16. -/
theorem test_pllEn :
    after (execPllEn { inState 4#4 planP4 with cr.hseon := true, cr.hserdy := true, cnt := 1#32 })
      (fun t => (crWord t.cr, t.cnt, t.status.state)) = some (0x01030000#32, 0#32, 5#4) := by decide

/-- M17, M18. -/
theorem test_pllWait :
    after (execPllWait { inState 5#4 planP1 with cr.pllrdy := true, cnt := 1#32 } Config.ref72)
        (fun t => (t.status.state, t.cnt)) = some (6#4, 1#32)
      ∧ after (execPllWait { inState 5#4 planP1 with cnt := 3#32 } Config.ref72) (fun t => statusWord t.status)
        = some 0x2D#32 := by decide

/-- M19 to M21. -/
theorem test_flashWs :
    after (execFlashWs (inState 6#4 planP1)) (fun t => (acrWord t.acr, t.status.state)) = some (2#32, 7#4)
      ∧ after (execFlashWs (inState 6#4 planP3)) (fun t => (acrWord t.acr, t.status.state)) = some (0#32, 8#4)
      ∧ after (execFlashWs (inState 6#4 (plan8M 0#32))) (fun t => t.status.state) = some 7#4 := by decide

/-- M22 to M24; `USBPRE` stays 0 where the variant has no USB prescaler (rule R27). -/
theorem test_prescPre :
    after (execPrescPre { inState 7#4 planP1 with cfgr.pllmul := 7#4 } Config.ref72)
        (fun t => (cfgrWord Config.ref72 t.cfgr, t.status.state)) = some (0x001C0400#32, 8#4)
      ∧ after (execPrescPre (inState 7#4 (plan8M 0x2880#32)) Config.ref72) (fun t => cfgrWord Config.ref72 t.cfgr)
        = some 0x00002880#32
      ∧ after (execPrescPre (inState 7#4 (plan8M 0x00403FF0#32)) Config.ref72) (fun t => cfgrWord Config.ref72 t.cfgr)
        = some 0x00403FF0#32
      ∧ after (execPrescPre (inState 7#4 (plan8M 0x00403FF0#32)) { hasUsbpre := false })
          (fun t => cfgrWord { hasUsbpre := false } t.cfgr) = some 0x00003FF0#32 := by decide

/-- M25. -/
theorem test_swSet :
    after (execSwSet { inState 8#4 planP1 with cfgr.pllmul := 7#4, cfgr.ppre1 := 4#3, cnt := 1#32 })
      (fun t => (cfgrWord Config.ref72 t.cfgr, t.cnt, t.status.state)) = some (0x001C0402#32, 0#32, 9#4) := by decide

/-- M26 to M28. -/
theorem test_swWait_confirms :
    after (execSwWait { inState 9#4 planP1 with cfgr.sws := 0b10#2 } Config.ref72) (fun t => t.status.state) = some 11#4
      ∧ after (execSwWait { inState 9#4 planP3 with cfgr.sws := 0b01#2 } Config.ref72) (fun t => t.status.state) = some 10#4
      ∧ after (execSwWait (inState 9#4 (plan8M 0x2880#32)) Config.ref72) (fun t => t.status.state) = some 11#4 := by decide

/-- M29, M30. -/
theorem test_swWait_waits :
    after (execSwWait { inState 9#4 planP1 with cfgr.sw := 0b10#2, cnt := 3#32 } Config.ref72)
        (fun t => (t.status.state, t.status.err, t.cfgr.sw)) = some (13#4, 3#2, 0b10#2)
      ∧ after (execSwWait { inState 9#4 planP1 with cfgr.sws := 0b01#2 } Config.ref72) (fun t => (t.status.state, t.cnt))
        = some (9#4, 1#32) := by decide

/-- M31. -/
theorem test_prescPost :
    after (execPrescPost { inState 10#4 (plan8M 0x81#32) with cfgr.sw := 0b01#2, cfgr.sws := 0b01#2 } Config.ref72)
      (fun t => (cfgrWord Config.ref72 t.cfgr, t.status.state)) = some (0x85#32, 11#4) := by decide

/-- M32 to M34. -/
theorem test_emit :
    after (execEmit (inState 11#4 planP1)) (fun t => (t.fc, statusWord t.status, t.curSysclk))
        = some (freqsP1, 0x70C#32, 72000000#32)
      ∧ after (execEmit (inState 11#4 planP3)) (fun t => (t.fc, statusWord t.status, t.curSysclk))
        = some (freqs 4000000 4000000 4000000 4000000, 0x10C#32, 4000000#32)
      ∧ after (execEmit (inState 11#4 { plan8M 0x2880#32 with f.pll := 123#32 })) (fun t => (t.fc.pll, t.status.fcPllValid))
        = some (123#32, false) := by decide

/-- M35. -/
theorem test_done_failed :
    after (execDone (inState 12#4 planP1)) (fun t => t) = some (inState 12#4 planP1)
      ∧ after (execFailed (inState 13#4 planP1)) (fun t => t) = some (inState 13#4 planP1) := by decide

/-- M36. -/
theorem test_reserved_codes :
    after (execRsvd14 (inState 14#4 planP1)) (fun t => statusWord t.status) = some 0x0D#32
      ∧ after (execRsvd15 (inState 15#4 planP1)) (fun t => statusWord t.status) = some 0x0D#32 := by decide

/-! ## Environment: vectors V1 to V7 -/

theorem test_env_ready :
    crWord (envStep .hseRdy { s0 with cr.hseon := true }).cr = 0x00030000#32
      ∧ envEnabled .hseRdy s0 = false ∧ envEnabled .hseRdy { s0 with cr.hseon := true, cr.hserdy := true } = false
      ∧ crWord (envStep .pllRdy { s0 with cr.pllon := true }).cr = 0x03000000#32 ∧ envEnabled .pllRdy s0 = false := by decide

theorem test_env_switch :
    cfgrWord Config.ref72 (envStep .switch { s0 with cfgr.sw := 2#2, cfgr.ppre1 := 4#3, cfgr.pllmul := 7#4 }).cfgr
        = 0x001C040A#32
      ∧ envEnabled .switch s0 = false
      ∧ statusWord (envStep .switch { inState 13#4 planP1 with status.err := 3#2, cfgr.sw := 2#2 }).status = 0x3D#32 := by decide

/-! ## Reset, arithmetic, observation, the byte view -/

theorem test_reset_words :
    ((List.range 32).map fun k => memRead Config.ref72 s0 (BitVec.ofNat 5 k))
      = List.replicate 7 0#32 ++ [8000000#32] ++ List.replicate 24 0#32 := by decide

/-- A1 to A9. -/
theorem test_checked_arithmetic :
    checkedMul 8000000 9 = .ok 72000000 ∧ checkedMul 8000000 10 = .ok 80000000
      ∧ checkedMul 268435456 16 = .error .arithmeticOverflow ∧ checkedMul 268435455 16 = .ok 4294967280
      ∧ checkedDiv 72000000 2 = .ok 36000000 ∧ checkedDiv 8000000 3 = .error .nonIntegerDivision
      ∧ checkedDivRatio 72000000 3 2 = .ok 48000000 ∧ checkedDivRatio 64000000 3 2 = .error .nonIntegerDivision := by
  refine ⟨?_, ?_, ?_, ?_, ?_, ?_, ?_, ?_⟩ <;> rfl

theorem test_wait_state_tiers :
    [24000000, 24000001, 48000000, 72000000, 72000001].map (wsTier Config.ref72)
      = [some 0, some 1, some 1, some 2, none] := by decide

/-- S6: the same variant with multiplier 10 (80 MHz) is not a valid plan. -/
theorem test_plan_over_the_maximum_is_not_valid :
    ¬ ValidPlan Config.ref72 { planP1 with f.sysclk := 80000000#32, f.pll := 80000000#32 } := by
  intro h
  exact absurd h.sysclk_le (by decide)

/-- Section 2.6: after `ENV_SWITCH` of P1, and the counterfactual switch before `PRESC_PRE`. -/
theorem test_observed_frequencies :
    let t : State := { inState 9#4 planP1 with cfgr := { s0.cfgr with sw := 2#2, sws := 2#2, pllmul := 7#4, ppre1 := 4#3 } }
    sysclk Config.ref72 t = 72000000 ∧ apb1 Config.ref72 t = 36000000
      ∧ apb1 Config.ref72 { t with cfgr.ppre1 := 0#3 } = 72000000 := by
  norm_num [sysclk, fSrc, fPll, fPllin, ahb, apb1, inState, s0, State.resetWith, Config.ref72, hdiv, pdiv, pllmul, plldiv,
    wirePlldiv, show ¬ (2#2 = 0#2) by decide, show ¬ (2#2 = 1#2) by decide]

/-- Rule R63: `PLAN_F_SYSCLK` of P1 as bytes, in a dump whose unlisted addresses read 0. -/
theorem test_dump_is_little_endian :
    (dump Config.ref72 { s0 with plan.f.sysclk := 0x044AA200#32, curSysclk := 0#32 })
      = [(0x25, 0xA2#8), (0x26, 0x4A#8), (0x27, 0x04#8)] := by decide

/-! ## Witnesses: for each statement with hypotheses, a state and operands that meet them -/

/-- For `DecodeEncodeAgree`. -/
theorem test_witness_well_formed :
    (Instr.wrplan (.freq .usb) 0xFFFFFFFF#32).wellFormed = true ∧ (Instr.wrign 15#5 1#32).wellFormed = true
      ∧ (Instr.commit planP1).wellFormed = true ∧ Instr.rsvd15.wellFormed = true := by decide

/-- For `DecodedInstructionsAreWellFormed` and `EncodeDecodeAgree`: bytes of each format that decode. -/
theorem test_witness_decodes :
    decode .uop [0x0F#8] = .ok .rsvd15
      ∧ decode .host [0x01#8, 0x00#8, 0x00#8, 0x00#8, 0xBC#8] = .ok (.wrign 15#5 1#32)
      ∧ decode .plan (List.replicate 28 0#8) = .ok (.commit { cfg := 0#32, f := freqs 0 0 0 0 }) := by
  refine ⟨?_, ?_, ?_⟩ <;> rfl

/-- For `OnlyAlignedWordAccessesAreAdmitted`: the last admitted offset and, on each side, an access that is not. -/
theorem test_witness_admission :
    ((0x7C % 4 = 0 ∧ 0x7C < 0x80) ∧ ¬ (0x7D % 4 = 0)) ∧ ¬ (0x80 < 0x80)
      ∧ decodeHost ⟨.read, 0x7C, 4, 0#32⟩ = .ok (.rdreg 31#5) ∧ decodeHost ⟨.read, 0x7D, 4, 0#32⟩ = .error .hostMisaligned
      ∧ decodeHost ⟨.read, 0x80, 4, 0#32⟩ = .error .hostOutside ∧ decodeHost ⟨.read, 0x7C, 8, 0#32⟩ = .error .hostWidth := by
  refine ⟨by decide, by decide, ?_, ?_, ?_, ?_⟩ <;> rfl

/-- For `StepRunsTheDecodedInstruction`: a schedule for each of its clauses, and what the step then does. -/
theorem test_witness_step :
    step { pending (plan8M 0#32) with schedule := [.seq] } = exec .idle (pending (plan8M 0#32))
      ∧ step { s0 with schedule := [.host ⟨.write, 0x20, 4, 5#32⟩, .seq] } = exec (.wrplan .cfg 5#32) { s0 with schedule := [.seq] }
      ∧ step { s0 with schedule := [.commit planP1] } = exec (.commit planP1) s0
      ∧ step { s0 with schedule := [.hostNext], hostProgram := [.write .cfg 5#32, .start] }
        = exec (.wrplan .cfg 5#32) { s0 with hostProgram := [.start] }
      ∧ step { s0 with schedule := [.hostNext], hostProgram := [.start] } = exec .start s0
      ∧ step { s0 with schedule := [.hostNext] } = .next s0
      ∧ step { s0 with schedule := [.env .hseRdy] } = .next (envStep .hseRdy s0)
      ∧ step { s0 with schedule := [.reset] } = .next (resetBlock Config.params s0)
      ∧ step { s0 with schedule := [.host ⟨.read, 2, 4, 0#32⟩] } = .refused (.hostAccess .hostMisaligned)
      ∧ step s0 = applyMove (Config.freeMove 0) { s0 with draws := 1 } :=
  ⟨rfl, rfl, rfl, rfl, rfl, rfl, rfl, rfl, rfl, rfl⟩

/-- For `PlacedInstructionIsTheNextStep`: a word of each width that decodes. -/
theorem test_witness_placed :
    decodeTableWord 4 3 = some .pllCfg ∧ decodeTableWord 8 15 = some .rsvd15 ∧ decodeTableWord 40 0x9000000001 = some .start
      ∧ decodeTableWord 32 0x049C0402 = some (.commit { cfg := 0x049C0402#32, f := freqs 0 0 0 0 }) := by decide

/-- For `PllCfgProgramsTheParameters` and `OnlyPllCfgWithThePllRunningFaults`. -/
theorem test_witness_pllCfg :
    (inState 3#4 planP1).cr.pllon = false
      ∧ exec .pllCfg { s0 with cr.pllon := true } = .fault .pllParamsWhileRunning := ⟨rfl, rfl⟩

/-- For `WrplanStoresWhileUnlocked`: each side of the lock, by `START_PEND` and by `STATE`. -/
theorem test_witness_lock :
    (s0.status.state = 0#4 ∧ s0.status.startPend = false)
      ∧ ¬ ((pending planP1).status.state = 0#4 ∧ (pending planP1).status.startPend = false)
      ∧ ¬ ((inState 13#4 planP1).status.state = 0#4 ∧ (inState 13#4 planP1).status.startPend = false) := by decide

/-- For `CommitIsSevenWritesAndAStart`: no `COMMIT` under way, unlocked and locked; one under way, at each kind of command;
sequencer steps between the eight host steps. -/
theorem test_witness_commit :
    (s0.hostProgram = [] ∧ s0.status.state = 0#4 ∧ s0.status.startPend = false)
      ∧ { s0 with hostProgram := [.write .cfg 5#32, .start] }.hostProgram = [.write .cfg 5#32, .start]
      ∧ { s0 with hostProgram := [.start] }.hostProgram = [.start]
      ∧ (let ms : List Move := [.seq, .hostNext, .hostNext, .seq, .seq, .hostNext, .hostNext, .hostNext, .hostNext, .seq, .hostNext]
        ms.filter (fun m => decide (m ≠ .seq)) = List.replicate 7 .hostNext ∧ ms.getLast? = some .hostNext)
      ∧ ((pending planP1).hostProgram = []
        ∧ ¬ ((pending planP1).status.state = 0#4 ∧ (pending planP1).status.startPend = false)) := by decide

/-- For `OnlyListedInstructionsWriteARegister`, `BytesOutsideTheWrittenRegistersAreUnchanged` and
`TheHostNeverWritesControlRegisters`: an instruction with a next state, and registers it is not listed for. -/
theorem test_witness_frame :
    (exec .swSet (inState 8#4 planP1) = .next (goto 9#4 { inState 8#4 planP1 with cfgr.sw := 0b10#2, cnt := 0#32 })
      ∧ mayWrite .swSet .cr = false ∧ mayWrite .swSet .cfgr = true
      ∧ (∀ r, regAt (BitVec.ofNat 5 (0x20 / 4)) = some r → mayWrite .swSet r = false))
    ∧ (formatOf (.wrplan .cfg 3#32) ≠ .uop ∧ exec (.wrplan .cfg 3#32) s0 = .next { s0 with plan.cfg := 3#32 }
      ∧ mayWrite (.wrplan .cfg 3#32) (.plan (.freq .usb)) = false)
    ∧ applyMove .hostNext { s0 with hostProgram := [.write .cfg 3#32] } = .next { s0 with plan.cfg := 3#32 } := by
  refine ⟨⟨rfl, rfl, rfl, ?_⟩, ⟨by decide, rfl, rfl⟩, rfl⟩
  intro r h
  cases h
  rfl

/-- The last unsuccessful poll, whatever the bound: `CNT` at its greatest. -/
theorem poll_at_greatest_count (bound : Nat) (hb : bound < 2 ^ 32) (c : BitVec 4) (e : TimeoutError) (s : State) :
    poll false bound c e { s with cnt := 0xFFFFFFFF#32 } = raiseError e { s with cnt := 0xFFFFFFFF#32 } := by
  unfold poll
  rw [if_neg (by decide), if_pos]
  show bound ≤ 4294967295 + 1
  omega

/-- For `OnlyListedInstructionsChangeAFlag` and `ErrorEntryWritesTheCodeAndFailedOnly`: each error is entered from some state;
`EMIT` changes the validity flags. -/
theorem test_witness_errors :
    (∃ t, exec .hseWait { inState 2#4 planP3 with cnt := 0xFFFFFFFF#32 } = .next t ∧ t.status.err = 1#2)
      ∧ (∃ t, exec .pllWait { inState 5#4 planP1 with cnt := 0xFFFFFFFF#32 } = .next t ∧ t.status.err = 2#2)
      ∧ (∃ t, exec .swWait { inState 9#4 planP1 with cnt := 0xFFFFFFFF#32 } = .next t ∧ t.status.err = 3#2)
      ∧ (∃ t, exec .emit (inState 11#4 planP1) = .next t ∧ t.status.fcPllValid = true) := by
  refine ⟨⟨_, congrArg Host.Outcome.next (poll_at_greatest_count _ Config.params.nOsc_range.2 _ _ (inState 2#4 planP3)), rfl⟩,
    ⟨_, congrArg Host.Outcome.next (poll_at_greatest_count _ Config.params.nPll_range.2 _ _ (inState 5#4 planP1)), rfl⟩,
    ⟨_, congrArg Host.Outcome.next (poll_at_greatest_count _ Config.params.nSw_range.2 _ _ (inState 9#4 planP1)), rfl⟩,
    ⟨_, rfl, rfl⟩⟩

/-- For `StateFollowsTheSuccessorTable`: sequencer steps along rows 0, 1, 3, 6, 8, 10, 11 and 14 of the table. -/
theorem test_witness_successors :
    ([(0#4, 0#4), (1#4, 2#4), (3#4, 4#4), (4#4, 5#4), (6#4, 7#4), (7#4, 8#4), (8#4, 9#4), (10#4, 11#4), (11#4, 12#4),
        (12#4, 12#4), (13#4, 13#4), (14#4, 13#4), (15#4, 13#4)].all fun c =>
      after (exec (decodeUop (inState c.1 planP1).status.state) (inState c.1 planP1)) (fun t => t.status.state) = some c.2)
      = true := by decide

/-- For `ThePlanIsLockedOnceCommitted`, `ThePhaseMovesOnlyForward`, `SequencerStepsBringTheEndNearer`: a committed state, a
sequencer move and a host move. -/
theorem test_witness_committed :
    committed (pending planP1) = true ∧ terminal (pending planP1) = false ∧ committing (pending planP1) = true
      ∧ applyMove .seq (pending planP1) = .next (inState 3#4 planP1)
      ∧ applyMove (.host ⟨.write, 0x20, 4, 0#32⟩) (pending planP1) = .next (pending planP1)
      ∧ unlocked s0 = true ∧ applyMove .seq s0 = .next s0 := by
  refine ⟨rfl, rfl, rfl, rfl, rfl, rfl, rfl⟩

/-- For `TerminalStatesAreAbsorbing`, `ThePhaseMovesOnlyForward` and `OnlyEmitCreatesTheRecord`. -/
theorem test_witness_terminal :
    applyMove (.env .hseRdy) { inState 12#4 planP1 with cr.hseon := true }
        = .next { inState 12#4 planP1 with cr.hseon := true, cr.hserdy := true }
      ∧ applyMove .seq (inState 13#4 planP1) = .next (inState 13#4 planP1) ∧ terminal (inState 13#4 planP1) = true
      ∧ ∃ t, applyMove .seq (inState 11#4 planP1) = .next t ∧ t.fc ≠ (inState 11#4 planP1).fc := by
  refine ⟨rfl, rfl, rfl, _, rfl, by decide⟩

/-- For `CheckedArithmeticIsExact`: a positive divisor, exact and not. -/
theorem test_witness_divisor : 0 < 3 ∧ checkedDiv 9 3 = .ok 3 ∧ ¬ 3 ∣ 8000000 := ⟨by decide, rfl, by decide⟩

/-- For `AValidPlanIsWellFormed` and `EveryRunStateIsSafe`: P1 is a valid plan of REF72 in a correct encoding. -/
theorem planP1_valid : ValidPlan Config.ref72 planP1 := by
  constructor
  · intro _; exact ⟨rfl, by decide, by decide, rfl⟩
  · intro h; exact absurd h (by decide)
  · decide
  · exact ⟨rfl, by decide, by decide⟩
  · exact ⟨rfl, by decide, by decide⟩
  · exact ⟨rfl, by decide, by decide⟩
  · decide
  · intro _; rfl
  · intro _; exact ⟨rfl, rfl, by decide⟩
  · intro h; exact absurd h (by decide)

theorem test_witness_valid_plan :
    ValidPlan Config.ref72 planP1 ∧ correctlyEncoded Config.ref72 planP1 = true := ⟨planP1_valid, by decide⟩

/-! ### States that meet the run invariant -/

/-- The reset state of `cfg` with plan `p` and a start pending. -/
def pendingFor (cfg : Config.Params) (p : Plan) : State := { State.resetWith cfg with plan := p, status.startPend := true }

/-- A pending start with a `wf` plan meets the run invariant, for every parameter set. -/
theorem pendingFor_inv (cfg : Config.Params) (p : Plan) (hp : planWf cfg p = true) : RunInv cfg (pendingFor cfg p) := by
  have hN := cfg.nOsc_range
  constructor <;>
    simp [pendingFor, State.resetWith, stage, committed, beforeFlash, afterSwSet, prescalersWritten, PrescalersReset,
      PllParamsReset, RecordEmpty, errCode, hp]
  omega

/-- A plan with word 0 `c` and every frequency 8 MHz is `wf` for every parameter set, when `c` asks for no optional feature. -/
def plainPlan (c : Word) : Plan := { cfg := c, f := { freqs 8000000 8000000 8000000 8000000 with pll := 8000000#32 } }

theorem plainPlan_wf (cfg : Config.Params) : planWf cfg (plainPlan 0#32) = true ∧ planWf cfg (plainPlan 1#32) = true
    ∧ planWf cfg (plainPlan 2#32) = true := by
  have := cfg.wsCeil_length.1
  refine ⟨?_, ?_, ?_⟩ <;>
    simp [planWf, Plan.reservedZero, planReservedMask, Plan.src, Plan.ws, Plan.usbpre, Plan.usbEn, Plan.plldiv,
      Plan.pllSelected, plainPlan, freqs, this]

/-- For `EveryStepKeepsTheRunInvariant` and `NoStepOfARunFaults`: a state that meets the invariant and steps. -/
theorem test_witness_run_step :
    RunInv Config.params { pendingFor Config.params (plainPlan 2#32) with schedule := [.seq] }
      ∧ ∃ t, step { pendingFor Config.params (plainPlan 2#32) with schedule := [.seq] } = .next t ∧ t.status.state = 3#4 := by
  refine ⟨?_, _, rfl, rfl⟩
  obtain ⟨a1, a2, a3, a4, a5, a6, a7, a8, a9, a10, a11, a12, a13, a14, a15, a16, a17, a18, a19, a20, a21, a22, a23, a24, a25,
    a26, a27, a28, a29, a30, a31, a32, a33, a34, a35, a36, a37⟩ := pendingFor_inv Config.params _ (plainPlan_wf Config.params).2.2
  constructor <;> assumption

/-- For `TheEagerScheduleReachesDone` and `TheAbsentScheduleTimesOut`: a pending start of each kind of plan. -/
theorem test_witness_pending :
    (RunInv Config.params (pendingFor Config.params (plainPlan 1#32)) ∧ (plainPlan 1#32).extSelected = true)
      ∧ (RunInv Config.params (pendingFor Config.params (plainPlan 2#32)) ∧ (plainPlan 2#32).extSelected = false
        ∧ (plainPlan 2#32).pllSelected = true)
      ∧ (RunInv Config.params (pendingFor Config.params (plainPlan 0#32)) ∧ (plainPlan 0#32).src = 0b00#2)
      ∧ (pendingFor Config.params (plainPlan 0#32)).status.startPend = true :=
  ⟨⟨pendingFor_inv _ _ (plainPlan_wf _).2.1, by decide⟩, ⟨pendingFor_inv _ _ (plainPlan_wf _).2.2, by decide, by decide⟩,
    ⟨pendingFor_inv _ _ (plainPlan_wf _).1, by decide⟩, rfl⟩

/-- A state in `HSE_WAIT` at its last poll, for every parameter set. -/
def lastOscPoll (cfg : Config.Params) : State :=
  { State.resetWith cfg with
    plan := plainPlan 1#32, status.state := 2#4, cr.hseon := true, cnt := BitVec.ofNat 32 (cfg.nOsc - 1) }

theorem lastOscPoll_cnt (cfg : Config.Params) : (lastOscPoll cfg).cnt.toNat + 1 = cfg.nOsc := by
  have hN := cfg.nOsc_range
  show (BitVec.ofNat 32 (cfg.nOsc - 1)).toNat + 1 = cfg.nOsc
  rw [BitVec.toNat_ofNat, Nat.mod_eq_of_lt (by omega)]
  omega

/-- For `TheFailingPollLeavesTheActiveSource`. -/
theorem test_witness_failing_poll :
    RunInv Config.params (lastOscPoll Config.params)
      ∧ ∃ t, exec (decodeUop (lastOscPoll Config.params).status.state) (lastOscPoll Config.params) = .next t
        ∧ t.status.err ≠ (lastOscPoll Config.params).status.err := by
  have hN := Config.params.nOsc_range
  have hc := lastOscPoll_cnt Config.params
  have hw := (plainPlan_wf Config.params).2.1
  have he : (plainPlan 1#32).extSelected = true ∧ (plainPlan 1#32).hsebyp = false := by decide
  constructor
  · have hb : (lastOscPoll Config.params).cnt.toNat < max Config.params.nOsc (max Config.params.nPll Config.params.nSw) := by omega
    constructor
    case cnt_bound => exact hb
    case osc_polls => intro _; omega
    all_goals
      simp [lastOscPoll, State.resetWith, stage, committed, beforeFlash, afterSwSet, prescalersWritten, PrescalersReset,
        PllParamsReset, RecordEmpty, errCode, hw, he]
  · refine ⟨raiseError .oscillatorStartup (lastOscPoll Config.params), ?_, by decide⟩
    show Host.Outcome.next (poll false _ _ _ _) = _
    unfold poll
    rw [if_neg (by decide), if_pos (by omega)]

/-- The states of the programs at the points the witnesses need: P1 after the switch (step 11) and at its end, P3 after its
switch request (step 6), P2, P4 and P5 at their ends. -/
def afterSwitchP1 : State :=
  { inState 9#4 planP1 with
    cr.pllon := true, cr.pllrdy := true, acr.latency := 2#3
    cfgr := { s0.cfgr with sw := 2#2, sws := 2#2, pllmul := 7#4, ppre1 := 4#3 } }

def endP1 : State :=
  { afterSwitchP1 with
    status := { state := 12#4, err := 0#2, startPend := false, fcValid := true, fcPllValid := true, fcUsbValid := true }
    fc := freqsP1, curSysclk := 72000000#32 }

def switchingP3 : State :=
  { inState 9#4 planP3 with
    cr.hseon := true, cr.hserdy := true, cr.hsebyp := true, cfgr.sw := 1#2 }

def endP2 : State := { inState 13#4 (plan8M 1#32) with cr.hseon := true, cnt := 3#32, status.err := 1#2 }

def endP4 : State :=
  { inState 13#4 planP4 with
    cr.hseon := true, cr.hserdy := true, cr.pllon := true, cnt := 3#32, status.err := 2#2
    cfgr := { s0.cfgr with pllsrc := true, pllmul := 7#4 } }

def endP5 : State := { afterSwitchP1 with status.state := 13#4, status.err := 3#2, cfgr.sws := 0#2, cnt := 3#32 }

/-- P3 whose switch is not confirmed: error 3 in switch-first order, without the PLL, the oscillator bypassed. -/
def failedSwitchP3 : State := { switchingP3 with status.state := 13#4, status.err := 3#2, cnt := 3#32 }

/-- A plan on the external oscillator at the reset frequency whose switch is not confirmed, and comes late: error 3 in
dividers-first order, without the PLL. -/
def lateSwitch : State :=
  { inState 13#4 (plan8M 0x401#32) with
    cr.hseon := true, cr.hserdy := true, cnt := 3#32, status.err := 3#2, cfgr.sw := 1#2, cfgr.sws := 1#2, cfgr.ppre1 := 4#3 }

theorem afterSwitchP1_inv : RunInv Config.ref72 afterSwitchP1 := by
  constructor <;>
    (try simp only [beforeFlash, afterSwSet, prescalersWritten, PrescalersReset, PrescalersPlan, PllParamsReset, PllParamsPlan,
      RecordEmpty, RecordPlan]) <;> decide

theorem endP1_inv : RunInv Config.ref72 endP1 := by
  constructor <;>
    (try simp only [beforeFlash, afterSwSet, prescalersWritten, PrescalersReset, PrescalersPlan, PllParamsReset, PllParamsPlan,
      RecordEmpty, RecordPlan]) <;> decide

theorem switchingP3_inv : RunInv Config.ref72 switchingP3 := by
  constructor <;>
    (try simp only [beforeFlash, afterSwSet, prescalersWritten, PrescalersReset, PrescalersPlan, PllParamsReset, PllParamsPlan,
      RecordEmpty, RecordPlan]) <;> decide

theorem endP2_inv : RunInv Config.ref72 endP2 := by
  constructor <;>
    (try simp only [beforeFlash, afterSwSet, prescalersWritten, PrescalersReset, PrescalersPlan, PllParamsReset, PllParamsPlan,
      RecordEmpty, RecordPlan]) <;> decide

theorem endP4_inv : RunInv Config.ref72 endP4 := by
  constructor <;>
    (try simp only [beforeFlash, afterSwSet, prescalersWritten, PrescalersReset, PrescalersPlan, PllParamsReset, PllParamsPlan,
      RecordEmpty, RecordPlan]) <;> decide

theorem endP5_inv : RunInv Config.ref72 endP5 := by
  constructor <;>
    (try simp only [beforeFlash, afterSwSet, prescalersWritten, PrescalersReset, PrescalersPlan, PllParamsReset, PllParamsPlan,
      RecordEmpty, RecordPlan]) <;> decide

theorem failedSwitchP3_inv : RunInv Config.ref72 failedSwitchP3 := by
  constructor <;>
    (try simp only [beforeFlash, afterSwSet, prescalersWritten, PrescalersReset, PrescalersPlan, PllParamsReset, PllParamsPlan,
      RecordEmpty, RecordPlan]) <;> decide

theorem lateSwitch_inv : RunInv Config.ref72 lateSwitch := by
  constructor <;>
    (try simp only [beforeFlash, afterSwSet, prescalersWritten, PrescalersReset, PrescalersPlan, PllParamsReset, PllParamsPlan,
      RecordEmpty, RecordPlan]) <;> decide

/-- For `EveryRunStateIsSafe`: a committed state with a valid plan, at 72 MHz. -/
theorem test_witness_safe :
    RunInv Config.ref72 afterSwitchP1 ∧ committed afterSwitchP1 = true ∧ ValidPlan Config.ref72 afterSwitchP1.plan :=
  ⟨afterSwitchP1_inv, by decide, planP1_valid⟩

/-- For `EveryRunFromResetIsSafe`: whatever `wf` plan the instance has (a valid one is), its commit is a run from reset to a
committed state; and a run that commits nothing. -/
theorem test_witness_run_from_reset (p : Plan) (hp : planWf Config.params p = true) :
    (∃ t, runMoves (.commit p :: List.replicate 7 .hostNext) State.reset = .next t ∧ committed t = true ∧ t.plan = p)
      ∧ (runMoves [.seq, .env .hseRdy] State.reset = .next State.reset ∧ committed State.reset = false) := by
  refine ⟨⟨_, runMoves_hostNext (commitCommands p) State.reset, ?_, ?_⟩, rfl, rfl⟩ <;>
    simp [commitCommands_run, State.reset, State.resetWith, unlocked, hp, committed]

/-- For `TheSwitchFollowsItsPreparation`: a rising plan after its switch, a falling one before it. -/
theorem test_witness_switch :
    (RunInv Config.ref72 afterSwitchP1 ∧ afterSwitchP1.cfgr.sws ≠ 0b00#2 ∧ raiseFirst afterSwitchP1 = true)
      ∧ (RunInv Config.ref72 switchingP3 ∧ switchingP3.cfgr.sw ≠ 0b00#2 ∧ raiseFirst switchingP3 = false) :=
  ⟨⟨afterSwitchP1_inv, by decide, by decide⟩, switchingP3_inv, by decide, by decide⟩

/-- For `TheEndOfARun` and `TheResidueOfEachError`: the end of P1, and of P2, P4 and P5 with errors 1, 2 and 3; error 3 in both
orders, with the PLL and without, with the external oscillator and without, before a late switch and after it. -/
theorem test_witness_ends :
    (RunInv Config.ref72 endP1 ∧ endP1.status.state = 12#4)
      ∧ (RunInv Config.ref72 endP2 ∧ endP2.status.state = 13#4 ∧ endP2.status.err = 1#2)
      ∧ (RunInv Config.ref72 endP4 ∧ endP4.status.state = 13#4 ∧ endP4.status.err = 2#2)
      ∧ (RunInv Config.ref72 endP5 ∧ endP5.status.state = 13#4 ∧ endP5.status.err = 3#2 ∧ raiseFirst endP5 = true
        ∧ endP5.plan.pllSelected = true ∧ endP5.plan.extSelected = false)
      ∧ (RunInv Config.ref72 failedSwitchP3 ∧ failedSwitchP3.status.state = 13#4 ∧ failedSwitchP3.status.err = 3#2
        ∧ raiseFirst failedSwitchP3 = false ∧ failedSwitchP3.plan.pllSelected = false ∧ failedSwitchP3.plan.hsebyp = true)
      ∧ (RunInv Config.ref72 lateSwitch ∧ lateSwitch.status.state = 13#4 ∧ lateSwitch.status.err = 3#2
        ∧ raiseFirst lateSwitch = true ∧ lateSwitch.plan.pllSelected = false ∧ lateSwitch.cfgr.sws = lateSwitch.plan.src) :=
  ⟨⟨endP1_inv, rfl⟩, ⟨endP2_inv, rfl, rfl⟩, ⟨endP4_inv, rfl, rfl⟩, ⟨endP5_inv, by decide⟩, ⟨failedSwitchP3_inv, by decide⟩,
    lateSwitch_inv, by decide⟩

/-- For `TheRecordTellsTheClocks`: P1 at its end, the PLL and USB clocks in its record. -/
theorem test_witness_record :
    RunInv Config.ref72 endP1 ∧ endP1.status.state = 12#4 ∧ ValidPlan Config.ref72 endP1.plan
      ∧ endP1.status.fcPllValid = true ∧ endP1.status.fcUsbValid = true := ⟨endP1_inv, rfl, planP1_valid, rfl, rfl⟩

/-- For `EnvironmentTransitionsSetOneInput` and `ATransitionDrawnWhileDisabledChangesNothing`: each transition enabled, and not
enabled for each reason. -/
theorem test_witness_env :
    ((inState 2#4 planP3).cr.hserdy = false ∧ endP2.cr.hseon = true ∧ endP2.cr.hserdy = false)
      ∧ (s0.cr.hseon = false ∧ switchingP3.cr.hserdy = true) ∧ switchingP3.cfgr.sws ≠ switchingP3.cfgr.sw
      ∧ (s0.cr.pllon = false ∧ endP4.cr.pllon = true ∧ endP4.cr.pllrdy = false ∧ afterSwitchP1.cr.pllrdy = true)
      ∧ afterSwitchP1.cfgr.sws = afterSwitchP1.cfgr.sw := by decide

/-- Sequencer steps in `DONE` change nothing. -/
theorem runMoves_done (n : Nat) {d : State} (hd : d.status.state = 12#4) : runMoves (List.replicate n .seq) d = .next d := by
  induction n with
  | zero => rfl
  | succ n ih =>
    have e : applyMove .seq d = .next d := by simp only [applyMove, hd]; rfl
    simp only [List.replicate_succ, runMoves, e, ih]

/-- For `EveryCommitEndsWithinTheBound`: `B` sequencer steps from a pending start, all answered, none a reset. -/
theorem test_witness_bound :
    let s := pending (plan8M 0#32)
    let ms := List.replicate (stepBound Config.params) Move.seq
    s.status.state = 0#4 ∧ s.status.startPend = true ∧ Move.reset ∉ ms ∧ (∃ t, runMoves ms s = .next t)
      ∧ stepBound Config.params ≤ seqCount ms := by
  refine ⟨rfl, rfl, ?_, ?_, ?_⟩
  · intro h
    cases List.eq_of_mem_replicate h
  · obtain ⟨n, hn⟩ : ∃ n, stepBound Config.params = n + 6 :=
      ⟨stepBound Config.params - 6, by unfold stepBound; omega⟩
    simp only [hn, List.replicate_succ]
    exact ⟨_, runMoves_done n (d := { inState 12#4 (plan8M 0#32) with
      fc := (plan8M 0#32).f, status.fcValid := true, cfgr.usbpre := wireUsbpre Config.params false }) rfl⟩
  · simp [seqCount]

end Sys2Proof.Tests
end

section
/-! PROOFS of the family 00_scope: the step and its moves (rules R5, R67), an instruction placed for the next step (rules R80,
R81, R84), and the checked arithmetic (rules R12, R13). -/

namespace Sys2Proof

/-! ## The table's numbering -/

/-- A micro-operation is of the format `UOP`. -/
@[simp] theorem formatOf_decodeUop (c : BitVec 4) : formatOf (decodeUop c) = .uop := by
  unfold decodeUop
  split <;> rfl

/-- A number that is read as a micro-operation names it in its low four bits (rule R81). -/
theorem decode_uop_leBytes {w : Nat} {i : Instr} (h : decode .uop (leBytes (formatBytes .uop) w) = .ok i) :
    i = decodeUop (BitVec.ofNat 4 w) := by
  have low : (BitVec.ofNat 8 w).extractLsb' 0 4 = BitVec.ofNat 4 w := by
    apply BitVec.eq_of_toNat_eq
    simp only [BitVec.extractLsb'_toNat, BitVec.toNat_ofNat, Nat.shiftRight_zero]
    omega
  simp only [formatBytes, leBytes, decode, low] at h
  split at h
  · exact (Except.ok.inj h).symm
  · cases h

/-- A number is read as the bus transaction its low 40 bits pack (rule R84). -/
theorem decode_host_leBytes (w : Nat) :
    decode .host (leBytes (formatBytes .host) w) = decodeHost (unpackTransaction (BitVec.ofNat 40 w)) := by
  have low : BitVec.ofNat 40 (w % 256 ^ 5) = BitVec.ofNat 40 w := by
    apply BitVec.eq_of_toNat_eq
    simp only [BitVec.toNat_ofNat]
    omega
  simp only [formatBytes, decode, leBytes_length, if_true, ofLeBytes_leBytes, low]

/-- The seven words of a plan lie in the low 224 bits of a number (rules R82, R83). -/
theorem planOfNat_mod (w : Nat) : planOfNat (w % 256 ^ 28) = planOfNat w := by
  simp only [planOfNat, Nat.shiftRight_eq_div_pow, Plan.mk.injEq, Freqs.mk.injEq]
  refine ⟨?_, ?_, ?_, ?_, ?_, ?_, ?_⟩ <;>
    (apply BitVec.eq_of_toNat_eq; simp only [BitVec.toNat_ofNat]; omega)

/-- A number that is read as a plan is the `COMMIT` of its seven words (rule R92). -/
theorem decode_plan_leBytes {w : Nat} {i : Instr} (h : decode .plan (leBytes (formatBytes .plan) w) = .ok i) :
    i = .commit (planOfNat w) := by
  simp only [formatBytes, decode, leBytes_length, if_true, ofLeBytes_leBytes, planOfNat_mod, decodePlan] at h
  split at h
  · exact (Except.ok.inj h).symm
  · cases h

/-- The table's bits are an instruction when their width has a format whose decoder accepts them. -/
theorem decodeTableWord_eq_some {nbits w : Nat} {i : Instr} :
    decodeTableWord nbits w = some i
      ↔ ∃ f, formatOfWidth nbits = some f ∧ decode f (leBytes (formatBytes f) w) = .ok i := by
  unfold decodeTableWord
  cases formatOfWidth nbits with
  | none => simp
  | some f =>
    simp only [Option.some.injEq, exists_eq_left']
    split <;> simp [*]

namespace Machine

/-! ## The step -/

/-- A scheduled move is the one made, on the state without that entry (rule R5). -/
theorem step_of_schedule_cons {s : State} {m : Move} {ms : List Move} (h : s.schedule = m :: ms) :
    step s = applyMove m { s with schedule := ms } := by
  simp only [step, draw, h]

/-- With nothing scheduled, the free value is the move made (log 1). -/
theorem step_of_schedule_nil {s : State} (h : s.schedule = []) :
    step s = applyMove (Config.freeMove s.draws) { s with draws := s.draws + 1 } := by
  simp only [step, draw, h]

/-- An admitted transaction runs the command it decodes to (rules R62, R84). -/
theorem applyMove_host_ok {t : Transaction} {i : Instr} (h : decodeHost t = .ok i) (s : State) :
    applyMove (.host t) s = exec i s := by
  simp only [applyMove, h]

/-- One that is not admitted is refused, with the reason (rule R62). -/
theorem applyMove_host_error {t : Transaction} {e : DecodeError} (h : decodeHost t = .error e) (s : State) :
    applyMove (.host t) s = .refused (.hostAccess e) := by
  simp only [applyMove, h]

/-- The instruction a bus command of a `COMMIT` is (rule R104). -/
def commitInstr : CommitCommand → Instr
  | .write r v => .wrplan r v
  | .start => .start

/-- A bus command of a `COMMIT` has the effect of the instruction it is (rules R100, R101, R104). -/
theorem exec_commitInstr (c : CommitCommand) (s : State) :
    exec (commitInstr c) s = .next (commitCommand Config.params c s) := by
  cases c <;> rfl

/-- The host's next step runs the next command of the `COMMIT` under way (rule R104). -/
theorem applyMove_hostNext_cons {s : State} {c : CommitCommand} {cs : List CommitCommand} (h : s.hostProgram = c :: cs) :
    applyMove .hostNext s = exec (commitInstr c) { s with hostProgram := cs } := by
  rw [exec_commitInstr, ← hostNext_cons Config.params h]
  rfl

/-- With no `COMMIT` under way it changes nothing (log 11). -/
theorem applyMove_hostNext_nil {s : State} (h : s.hostProgram = []) : applyMove .hostNext s = .next s := by
  simp only [applyMove, hostNext_nil Config.params h]

/-- Settles O6: `step` makes the scheduled move, and each kind of move has its own lemma. -/
theorem stepRunsTheDecodedInstruction : Obligations.StepRunsTheDecodedInstruction := by
  intro s
  refine ⟨?move, ?seq, ?admitted, ?refused, ?commit, ?write, ?start, ?idleHost, ?env, ?free⟩
  case move => exact fun _ _ h => step_of_schedule_cons h
  case seq => exact fun _ h => step_of_schedule_cons h
  case admitted => exact fun _ _ _ h hi => (step_of_schedule_cons h).trans (applyMove_host_ok hi _)
  case refused => exact fun _ _ _ h he => (step_of_schedule_cons h).trans (applyMove_host_error he _)
  case commit => exact fun _ _ h => step_of_schedule_cons h
  case write => exact fun _ _ _ ms h hp =>
    (step_of_schedule_cons h).trans (applyMove_hostNext_cons (s := { s with schedule := ms }) hp)
  case start => exact fun _ ms h hp =>
    (step_of_schedule_cons h).trans (applyMove_hostNext_cons (s := { s with schedule := ms }) hp)
  case idleHost => exact fun _ h hp => (step_of_schedule_cons h).trans (applyMove_hostNext_nil hp)
  case env => exact fun _ _ h => step_of_schedule_cons h
  case free => exact step_of_schedule_nil

/-! ## An instruction placed for the next step (log 3) -/

section
variable {nbits : Nat} (w : Nat) (s : State)

/-- A placed `UOP` is run by the sequencer, in the state whose `STATE` names it. -/
theorem step_withFetchWord_uop (h : formatOfWidth nbits = some .uop) :
    step (s.withFetchWord nbits w)
      = exec (decodeUop (BitVec.ofNat 4 w)) { s with status.state := BitVec.ofNat 4 w } := by
  simp only [State.withFetchWord, placeInstruction, h]
  exact step_of_schedule_cons (m := .seq) rfl

/-- A placed `HOST` transaction is the host's move, in the unchanged state. -/
theorem step_withFetchWord_host (h : formatOfWidth nbits = some .host) :
    step (s.withFetchWord nbits w) = applyMove (.host (unpackTransaction (BitVec.ofNat 40 w))) s := by
  simp only [State.withFetchWord, placeInstruction, h]
  exact step_of_schedule_cons rfl

/-- A placed `PLAN` is begun as the only `COMMIT` under way, its seven further host steps scheduled. -/
theorem step_withFetchWord_plan (h : formatOfWidth nbits = some .plan) :
    step (s.withFetchWord nbits w)
      = exec (.commit (planOfNat w))
          { s with hostProgram := [], schedule := List.replicate 7 .hostNext ++ s.schedule } := by
  simp only [State.withFetchWord, placeInstruction, h]
  exact step_of_schedule_cons (m := .commit _) rfl

end

/-- Settles O7, by the format of the width: what the decoder reads there is what the placed move runs. -/
theorem placedInstructionIsTheNextStep : Obligations.PlacedInstructionIsTheNextStep := by
  intro nbits w i s h
  obtain ⟨f, hf, hd⟩ := decodeTableWord_eq_some.mp h
  cases f with
  | uop =>
    obtain rfl := decode_uop_leBytes hd
    simp only [step_withFetchWord_uop w s hf, formatOf_decodeUop]
  | host =>
    rw [decode_host_leBytes] at hd
    simp only [step_withFetchWord_host w s hf, applyMove_host_ok hd, decodeHost_format hd]
  | plan =>
    obtain rfl := decode_plan_leBytes hd
    simp only [step_withFetchWord_plan w s hf, formatOf]

/-! ## Checked arithmetic (rules R12, R13) -/

/-- `checked_mul` answers the exact product, below 2^32 (rule R12). -/
theorem checkedMul_eq_ok {f k r : Nat} : checkedMul f k = .ok r ↔ r = f * k ∧ r < 2 ^ 32 := by
  unfold checkedMul
  split
  · simp only [reduceCtorEq, false_iff]; omega
  · rw [Except.ok.injEq]; omega

/-- It overflows from 2^32 on (rule R12). -/
theorem checkedMul_eq_error {f k : Nat} : checkedMul f k = .error .arithmeticOverflow ↔ 2 ^ 32 ≤ f * k := by
  unfold checkedMul
  split
  case isTrue h => exact iff_of_true rfl h
  case isFalse h => exact iff_of_false nofun h

/-- `checked_div` by a positive divisor answers the exact quotient (rule R13). -/
theorem checkedDiv_eq_ok {f d r : Nat} (hd : 0 < d) : checkedDiv f d = .ok r ↔ r * d = f := by
  unfold checkedDiv
  split
  case isTrue h =>
    have : r * d ≠ f := fun e => h (e ▸ Nat.mul_mod_left r d)
    simp [this]
  case isFalse h =>
    have dvd : d ∣ f := Nat.dvd_of_mod_eq_zero (not_not.mp h)
    rw [Except.ok.injEq, Nat.div_eq_iff_eq_mul_left hd dvd, eq_comm]

/-- It is an error when the divisor does not divide (rule R13). -/
theorem checkedDiv_eq_error {f d : Nat} : checkedDiv f d = .error .nonIntegerDivision ↔ ¬ d ∣ f := by
  rw [Nat.dvd_iff_mod_eq_zero, checkedDiv]
  split <;> simp [*]

/-- Division by a ratio `n/m` is exact, of a product that does not overflow (rule R13). -/
theorem checkedDivRatio_eq_ok {f n m r : Nat} (hn : 0 < n) :
    checkedDivRatio f n m = .ok r ↔ r * n = f * m ∧ f * m < 2 ^ 32 := by
  unfold checkedDivRatio
  cases h : checkedMul f m with
  | error e =>
    have overflows : ¬ f * m < 2 ^ 32 := fun hlt => by
      rw [checkedMul_eq_ok.mpr ⟨rfl, hlt⟩] at h
      cases h
    exact iff_of_false nofun fun hr => overflows hr.2
  | ok g =>
    obtain ⟨rfl, hlt⟩ := checkedMul_eq_ok.mp h
    exact (checkedDiv_eq_ok hn).trans (and_iff_left hlt).symm

/-- Settles O44: each clause is what its function answers. -/
theorem checkedArithmeticIsExact : Obligations.CheckedArithmeticIsExact :=
  ⟨fun _ _ _ => checkedMul_eq_ok, fun _ _ => checkedMul_eq_error, fun _ _ _ => checkedDiv_eq_ok,
    fun _ _ _ => checkedDiv_eq_error, fun _ _ _ _ => checkedDivRatio_eq_ok⟩

end Machine

end Sys2Proof
end

section
/-! PROOFS of the family 10_state: register words (rules R26 to R30), the code-to-ratio tables (rule R35), the reset state (rule
R40), who writes what (rules R20, R25, R163), the successor table (rule R24), the lock of the plan (rule R21) and the record (rule
R22). -/

namespace Sys2Proof.Machine

/-! ## Fields of a register word (rule R9) -/

section
variable {n lo : Nat} (x : BitVec n)

/-- Bit `i` of a field at bit `lo` is bit `i - lo` of what it holds. -/
theorem getLsbD_fieldAt (i : Nat) :
    (fieldAt lo x).getLsbD i = (decide (i < 32) && decide (lo ≤ i) && x.getLsbD (i - lo)) := by
  by_cases h : lo ≤ i
  · simp only [fieldAt, BitVec.getLsbD_shiftLeft, BitVec.getLsbD_setWidth]
    grind
  · simp [fieldAt, h, Nat.lt_of_not_le h]

/-- A field is read back at its own bits. -/
theorem extractLsb'_fieldAt_self (h : lo + n ≤ 32) : (fieldAt lo x).extractLsb' lo n = x := by
  apply BitVec.eq_of_getLsbD_eq
  intro i hi
  have : lo + i < 32 := by omega
  simp only [BitVec.getLsbD_extractLsb', getLsbD_fieldAt, hi, this, Nat.le_add_right, decide_true, Bool.true_and,
    Nat.add_sub_cancel_left]

/-- A field leaves the bits of every other one zero. -/
theorem getLsbD_fieldAt_outside {i : Nat} (h : i < lo ∨ lo + n ≤ i) : (fieldAt lo x).getLsbD i = false := by
  rw [getLsbD_fieldAt]
  by_cases hlo : lo ≤ i
  · rw [BitVec.getLsbD_of_ge x _ (by omega), Bool.and_false]
  · simp [hlo]

theorem extractLsb'_fieldAt_disjoint {lo' n' : Nat} (h : lo' + n' ≤ lo ∨ lo + n ≤ lo') :
    (fieldAt lo x).extractLsb' lo' n' = 0#n' := by
  apply BitVec.eq_of_getLsbD_eq
  intro i hi
  rw [BitVec.getLsbD_extractLsb', getLsbD_fieldAt_outside x (by omega), Bool.and_false, BitVec.getLsbD_zero]

/-- A mask that is zero at the bits of a field masks it out. -/
theorem fieldAt_and_eq_zero {m : Word} (h : m.extractLsb' lo n = 0#n) : fieldAt lo x &&& m = 0#32 := by
  apply BitVec.eq_of_getLsbD_eq
  intro i hi
  rw [BitVec.getLsbD_and, BitVec.getLsbD_zero]
  by_cases hb : lo ≤ i ∧ i < lo + n
  · have hm : (m.extractLsb' lo n).getLsbD (i - lo) = false := by rw [h, BitVec.getLsbD_zero]
    have inside : i - lo < n := by omega
    simp only [BitVec.getLsbD_extractLsb', inside, decide_true, Bool.true_and, Nat.add_sub_cancel' hb.1] at hm
    rw [hm, Bool.and_false]
  · rw [getLsbD_fieldAt_outside x (by omega), Bool.false_and]

end

/-- A one-bit field is read back at its own bit. -/
theorem getLsbD_fieldAt_ofBool {i : Nat} (b : Bool) (h : i < 32) : (fieldAt i (BitVec.ofBool b)).getLsbD i = b := by
  simp only [getLsbD_fieldAt, h, Nat.le_refl, decide_true, Bool.true_and, Nat.sub_self]
  cases b <;> rfl

/-- `BUSY` is 1 exactly when `STATE` is none of `IDLE`, `DONE`, `FAILED` (rule R25). -/
theorem busy_eq_true (t : Status) : busy t = true ↔ t.state ≠ 0#4 ∧ t.state ≠ 12#4 ∧ t.state ≠ 13#4 := by
  simp [busy, and_assoc]

/-- Settles O26: each field is read back at its own bits, every other field is zero there, and each mask is zero at the bits of
every field. -/
theorem controlAndStatusWordLayout : Obligations.ControlAndStatusWordLayout := by
  intro s
  refine ⟨?cr, ?acr, ?status⟩
  case cr =>
    simp (disch := decide) only [crWord, bitAt, BitVec.getLsbD_or, getLsbD_fieldAt_ofBool, getLsbD_fieldAt_outside,
      BitVec.and_or_distrib_right, fieldAt_and_eq_zero, BitVec.or_zero, Bool.or_false, Bool.false_or, and_self]
  case acr => exact ⟨extractLsb'_fieldAt_self _ (by decide), fieldAt_and_eq_zero _ (by decide)⟩
  case status =>
    simp (disch := decide) only [statusWord, bitAt, BitVec.getLsbD_or, getLsbD_fieldAt_ofBool, getLsbD_fieldAt_outside,
      BitVec.extractLsb'_or, extractLsb'_fieldAt_self, extractLsb'_fieldAt_disjoint, BitVec.and_or_distrib_right,
      fieldAt_and_eq_zero, BitVec.or_zero, BitVec.zero_or, Bool.or_false, Bool.false_or, and_self, busy_eq_true]

/-- Settles O27: as for `CR` and `STATUS`, whatever is hardwired. -/
theorem clockConfigurationWordLayout : Obligations.ClockConfigurationWordLayout := by
  intro cfg r
  have wired : ∀ has b : Bool, (has && b) = if has = true then b else false := by decide
  simp (disch := decide) only [cfgrWord, bitAt, BitVec.getLsbD_or, getLsbD_fieldAt_ofBool, getLsbD_fieldAt_outside,
    BitVec.extractLsb'_or, extractLsb'_fieldAt_self, extractLsb'_fieldAt_disjoint, BitVec.or_zero, BitVec.zero_or,
    Bool.or_false, Bool.false_or, wirePlldiv, wireUsbpre, wired, and_self]

/-! ## Code to ratio (rule R35) -/

/-- Settles O45: each table, code by code. -/
theorem ratioTables : Obligations.RatioTables := ⟨rfl, rfl, rfl, rfl, rfl, rfl, rfl⟩

/-! ## The reset state (rule R40) -/

/-- Every register reads 0 at reset but `CUR_SYSCLK`, which reads `F_INT`. -/
theorem readReg_resetWith (cfg : Config.Params) (r : Reg) :
    readReg cfg (State.resetWith cfg) r = if r = .curSysclk then BitVec.ofNat 32 cfg.fInt else 0#32 := by
  cases r with
  | cr => simp [readReg, State.resetWith, crWord, bitAt, fieldAt]
  | status => simp [readReg, State.resetWith, statusWord, busy, bitAt, fieldAt]
  | cfgr => simp [readReg, State.resetWith, cfgrWord, wirePlldiv, wireUsbpre, bitAt, fieldAt]
  | plan r => rcases r with _ | r <;> [rfl; (cases r <;> rfl)]
  | fc r => cases r <;> rfl
  | _ => rfl

/-- `CUR_SYSCLK` is word 7 (rule R60). -/
theorem regAt_eq_curSysclk (o : BitVec 5) : regAt o = some .curSysclk ↔ o = 7#5 := by
  revert o; decide

/-- Settles O41: word by word through the map of rule R60. -/
theorem resetValues : Obligations.ResetValues := by
  refine ⟨fun o => ?words, Nat.mod_eq_of_lt Config.params.fInt_range.2, rfl, rfl, rfl, rfl, rfl⟩
  case words =>
    simp only [← regAt_eq_curSysclk, memRead, State.reset]
    cases regAt o with
    | none => rfl
    | some r => simp only [readReg_resetWith, Option.some.injEq]

/-- The reset state meets the run invariant, for every parameter set: no stage has been reached, and what a stage writes is still
at its reset value. -/
theorem runInv_resetWith (cfg : Config.Params) : RunInv cfg (State.resetWith cfg) := by
  have stage_zero : stage (State.resetWith cfg) = 0 := rfl
  have not_committed : committed (State.resetWith cfg) = false := rfl
  have before_flash : beforeFlash (State.resetWith cfg) := .inl (by simp [stage_zero])
  have not_switched : ¬ afterSwSet (State.resetWith cfg) := by simp [afterSwSet, stage_zero]
  have not_written : ¬ prescalersWritten (State.resetWith cfg) := by simp [prescalersWritten, stage_zero]
  have prescalers : PrescalersReset (State.resetWith cfg) := ⟨rfl, rfl, rfl, rfl⟩
  have params : PllParamsReset (State.resetWith cfg) := ⟨rfl, rfl, rfl⟩
  have record : RecordEmpty (State.resetWith cfg) := ⟨rfl, rfl, rfl, rfl⟩
  have cr : (State.resetWith cfg).cr = ⟨false, false, false, false, false⟩ := rfl
  have sw : (State.resetWith cfg).cfgr.sw = 0#2 ∧ (State.resetWith cfg).cfgr.sws = 0#2 := ⟨rfl, rfl⟩
  have status : (State.resetWith cfg).status = ⟨0#4, 0#2, false, false, false, false⟩ := rfl
  have counter : (State.resetWith cfg).cnt = 0#32 := rfl
  constructor
  case cnt_bound => exact lt_max_of_lt_left cfg.nOsc_range.1
  case latency_before => exact fun _ => rfl
  case cur_before => exact fun _ => rfl
  all_goals simp [*, errCode]

/-- Settles O47. -/
theorem runInvariantHoldsAtReset : Obligations.RunInvariantHoldsAtReset := runInv_resetWith Config.params

/-! ## Who writes what (rules R20, R25, R163) -/

/-- The record and its validity flags are the same in both states (rule R22). -/
def SameRecord (s t : State) : Prop :=
  t.fc = s.fc ∧ t.status.fcValid = s.status.fcValid ∧ t.status.fcPllValid = s.status.fcPllValid
    ∧ t.status.fcUsbValid = s.status.fcUsbValid

/-- What `i` leaves unchanged from `s` to `t`: the registers it is not listed for (rule R20), the flags it is not listed for (rule
R25), the status inputs of the clock tree (rule R163), and the model's own fields (logs 1, 5, 6, 11). -/
structure Frame (i : Instr) (s t : State) : Prop where
  cr : mayWrite i .cr = false → t.cr = s.cr
  cfgr : mayWrite i .cfgr = false → t.cfgr = s.cfgr
  acr : mayWrite i .acr = false → t.acr = s.acr
  status : mayWrite i .status = false → t.status = s.status
  cnt : mayWrite i .cnt = false → t.cnt = s.cnt
  curSysclk : mayWrite i .curSysclk = false → t.curSysclk = s.curSysclk
  plan : ∀ q, mayWrite i (.plan q) = false → t.plan.get q = s.plan.get q
  startPend : t.status.startPend ≠ s.status.startPend → i = .start ∨ i = .idle ∨ ∃ p, i = .commit p
  err : t.status.err ≠ s.status.err → i = .hseWait ∨ i = .pllWait ∨ i = .swWait
  record : i ≠ .emit → SameRecord s t
  state : t.status.state ≠ s.status.state → formatOf i = .uop
  inputs : t.cr.hserdy = s.cr.hserdy ∧ t.cr.pllrdy = s.cr.pllrdy ∧ t.cfgr.sws = s.cfgr.sws
  hostRdata : t.hostRdata ≠ s.hostRdata → ∃ o, i = .rdreg o
  hostProgram : t.hostProgram ≠ s.hostProgram → ∃ p, i = .commit p
  schedule : t.schedule = s.schedule
  draws : t.draws = s.draws

/-- No change is within every frame. -/
theorem Frame.refl (i : Instr) (s : State) : Frame i s s where
  cr _ := rfl
  cfgr _ := rfl
  acr _ := rfl
  status _ := rfl
  cnt _ := rfl
  curSysclk _ := rfl
  plan _ _ := rfl
  startPend h := absurd rfl h
  err h := absurd rfl h
  record _ := ⟨rfl, rfl, rfl, rfl⟩
  state h := absurd rfl h
  inputs := ⟨rfl, rfl, rfl⟩
  hostRdata h := absurd rfl h
  hostProgram h := absurd rfl h
  schedule := rfl
  draws := rfl

theorem mayWrite_status_of_uop {i : Instr} (hf : formatOf i = .uop) : mayWrite i .status = true := by
  simp [mayWrite, hf]

/-- A micro-operation may move the program counter (rules R10, R23). -/
theorem Frame.goto {i : Instr} {s t : State} (hf : formatOf i = .uop) (h : Frame i s t) (c : BitVec 4) :
    Frame i s (goto c t) :=
  { h with
    status := by simp [mayWrite_status_of_uop hf]
    state := fun _ => hf }

/-- A wait may count its poll, or raise its error (rules R112, R115, R134). -/
theorem Frame.poll {i : Instr} (hi : i = .hseWait ∨ i = .pllWait ∨ i = .swWait) (ready : Bool) (bound : Nat) (c : BitVec 4)
    (e : TimeoutError) (s : State) : Frame i s (poll ready bound c e s) := by
  have hf : formatOf i = .uop := by rcases hi with rfl | rfl | rfl <;> rfl
  have hc : mayWrite i .cnt = true := by rcases hi with rfl | rfl | rfl <;> rfl
  obtain ⟨-, h⟩ | ⟨-, -, h⟩ | ⟨-, -, h⟩ := poll_cases ready bound c e s <;> rw [h]
  · exact (Frame.refl i s).goto hf c
  · exact { Frame.refl i s with status := by simp [mayWrite_status_of_uop hf], err := fun _ => hi, state := fun _ => hf }
  · exact { Frame.refl i s with cnt := by simp [hc] }

/-- `PLL_CFG` answers a next state only with the PLL disabled (rule R113, U1). -/
theorem exec_pllCfg_eq_next {s t : State} (h : exec .pllCfg s = .next t) :
    s.cr.pllon = false ∧ t = goto Code.pllEn (writePllParams Config.params s) := by
  change (if s.cr.pllon then _ else _) = _ at h
  split at h
  case isTrue => cases h
  case isFalse hoff => exact ⟨by simpa using hoff, (Host.Outcome.next.inj h).symm⟩

/-- A plan word that is written leaves the others (rule R100). -/
theorem Frame.wrplan (r : PlanReg) (v : Word) (s : State) : Frame (.wrplan r v) s (writePlan r v s) := by
  obtain ⟨-, h⟩ | ⟨-, h⟩ := writePlan_cases r v s <;> rw [h]
  · refine { Frame.refl (.wrplan r v) s with plan := fun q hq => plan_get_set_other s.plan v ?_ }
    simpa [mayWrite] using hq
  · exact .refl _ s

/-- Every instruction stays within its frame. -/
theorem exec_frame {i : Instr} {s t : State} (h : exec i s = .next t) : Frame i s t := by
  cases i with
  | pllCfg =>
    obtain ⟨-, rfl⟩ := exec_pllCfg_eq_next h
    exact .goto rfl (t := writePllParams Config.params s) { Frame.refl .pllCfg s with cfgr := nofun } _
  | idle =>
    obtain rfl := Host.Outcome.next.inj h
    split
    · refine .goto rfl ?_ _
      exact { Frame.refl .idle s with status := nofun, startPend := fun _ => .inr (.inl rfl) }
    · exact .refl .idle s
  | hseWait => obtain rfl := Host.Outcome.next.inj h; exact .poll (by simp) ..
  | pllWait => obtain rfl := Host.Outcome.next.inj h; exact .poll (by simp) ..
  | swWait => obtain rfl := Host.Outcome.next.inj h; exact .poll (by simp) ..
  | hseEn =>
    obtain rfl := Host.Outcome.next.inj h
    refine .goto rfl ?_ _
    exact { Frame.refl .hseEn s with cr := nofun, cnt := nofun }
  | pllEn =>
    obtain rfl := Host.Outcome.next.inj h
    refine .goto rfl ?_ _
    exact { Frame.refl .pllEn s with cr := nofun, cnt := nofun }
  | flashWs =>
    obtain rfl := Host.Outcome.next.inj h
    refine .goto rfl ?_ _
    exact { Frame.refl .flashWs s with acr := nofun }
  | prescPre =>
    obtain rfl := Host.Outcome.next.inj h
    refine .goto rfl ?_ _
    exact { Frame.refl .prescPre s with cfgr := nofun }
  | prescPost =>
    obtain rfl := Host.Outcome.next.inj h
    refine .goto rfl ?_ _
    exact { Frame.refl .prescPost s with cfgr := nofun }
  | swSet =>
    obtain rfl := Host.Outcome.next.inj h
    refine .goto rfl ?_ _
    exact { Frame.refl .swSet s with cfgr := nofun, cnt := nofun }
  | emit =>
    obtain rfl := Host.Outcome.next.inj h
    refine .goto rfl ?_ _
    exact { Frame.refl .emit s with status := nofun, curSysclk := nofun, record := fun hi => absurd rfl hi }
  | done => obtain rfl := Host.Outcome.next.inj h; exact .refl .done s
  | failed => obtain rfl := Host.Outcome.next.inj h; exact .refl .failed s
  | rsvd14 => obtain rfl := Host.Outcome.next.inj h; exact .goto rfl (.refl .rsvd14 s) _
  | rsvd15 => obtain rfl := Host.Outcome.next.inj h; exact .goto rfl (.refl .rsvd15 s) _
  | rdreg o =>
    obtain rfl := Host.Outcome.next.inj h
    exact { Frame.refl (.rdreg o) s with hostRdata := fun _ => ⟨o, rfl⟩ }
  | wrplan r v => obtain rfl := Host.Outcome.next.inj h; exact .wrplan r v s
  | start =>
    obtain rfl := Host.Outcome.next.inj h
    obtain ⟨-, -, e⟩ | ⟨-, e⟩ := acceptStart_cases Config.params s <;> rw [e]
    · exact { Frame.refl .start s with status := nofun, startPend := fun _ => .inl rfl }
    · exact .refl .start s
  | wrign o v => obtain rfl := Host.Outcome.next.inj h; exact .refl _ s
  | commit p =>
    obtain rfl := Host.Outcome.next.inj h
    obtain ⟨q, b, e, -, -⟩ := hostNext_cases Config.params { s with hostProgram := s.hostProgram ++ commitCommands p }
    rw [e]
    exact { Frame.refl (.commit p) s with
      status := nofun, plan := nofun, startPend := fun _ => .inr (.inr ⟨p, rfl⟩), hostProgram := fun _ => ⟨p, rfl⟩ }

/-- Settles O29: register by register, from the frame. -/
theorem onlyListedInstructionsWriteARegister : Obligations.OnlyListedInstructionsWriteARegister := by
  intro i s t r h hw
  have frame := exec_frame h
  cases r with
  | cr => exact congrArg crWord (frame.cr hw)
  | cfgr => exact congrArg (cfgrWord Config.params) (frame.cfgr hw)
  | acr => exact congrArg acrWord (frame.acr hw)
  | ctrl => rfl
  | status => exact congrArg statusWord (frame.status hw)
  | cnt => exact frame.cnt hw
  | curSysclk => exact frame.curSysclk hw
  | plan q => exact frame.plan q hw
  | fc q =>
    have not_emit : i ≠ .emit := by simpa [mayWrite] using hw
    exact congrArg (Freqs.get · q) (frame.record not_emit).1

/-- Settles O30: a byte is a part of the word of its register, and an unmapped one reads 0. -/
theorem bytesOutsideTheWrittenRegistersAreUnchanged : Obligations.BytesOutsideTheWrittenRegistersAreUnchanged := by
  intro i s t k h hk
  have word : memRead Config.params t (BitVec.ofNat 5 (k / 4)) = memRead Config.params s (BitVec.ofNat 5 (k / 4)) := by
    unfold memRead
    split
    case h_1 r hr => exact onlyListedInstructionsWriteARegister i s t r h (hk r hr)
    case h_2 => rfl
  simp only [byteAt, word]

/-- Settles O31: the clauses of the frame on flags, inputs and the model's own fields. -/
theorem onlyListedInstructionsChangeAFlag : Obligations.OnlyListedInstructionsChangeAFlag := by
  intro i s t h
  have frame := exec_frame h
  obtain ⟨hserdy, pllrdy, sws⟩ := frame.inputs
  refine ⟨frame.startPend, frame.err, ?validity, frame.state, hserdy, pllrdy, sws, frame.hostRdata, frame.hostProgram,
    frame.schedule, frame.draws⟩
  case validity =>
    intro hne
    by_contra not_emit
    obtain ⟨-, valid, pll, usb⟩ := frame.record not_emit
    exact hne.elim (· valid) (·.elim (· pll) (· usb))

/-! ## The successor table (rule R24) -/

/-- Settles O34, row by row: a wait goes on as its poll does (`poll_cases`), every other row is its micro-operation's `pc <-`. -/
theorem stateFollowsTheSuccessorTable : Obligations.StateFollowsTheSuccessorTable := by
  intro s t h
  rcases state_cases s.status.state with hs | hs | hs | hs | hs | hs | hs | hs | hs | hs | hs | hs | hs | hs | hs | hs <;>
    rw [hs] at h ⊢
  · -- `IDLE`
    obtain rfl := Host.Outcome.next.inj h
    cases s.status.startPend with
    | false => simp [hs]
    | true => cases s.plan.extSelected <;> cases s.plan.pllSelected <;> simp
  · -- `HSE_EN`
    obtain rfl := Host.Outcome.next.inj h
    trivial
  · -- `HSE_WAIT`
    obtain rfl := Host.Outcome.next.inj h
    obtain ⟨hr, e⟩ | ⟨hr, hb, e⟩ | ⟨hr, hb, e⟩ := poll_cases s.cr.hserdy Config.params.nOsc
      (if s.plan.pllSelected then Code.pllCfg else Code.flashWs) .oscillatorStartup s <;> rw [e]
    · cases s.plan.pllSelected <;> exact ⟨hr, rfl⟩
    · exact ⟨hr, hb⟩
    · simp [hs, hr, hb]
  · -- `PLL_CFG`
    obtain ⟨-, rfl⟩ := exec_pllCfg_eq_next h
    trivial
  · -- `PLL_EN`
    obtain rfl := Host.Outcome.next.inj h
    trivial
  · -- `PLL_WAIT`
    obtain rfl := Host.Outcome.next.inj h
    obtain ⟨hr, e⟩ | ⟨hr, hb, e⟩ | ⟨hr, hb, e⟩ :=
      poll_cases s.cr.pllrdy Config.params.nPll Code.flashWs .pllLock s <;> rw [e]
    · exact hr
    · exact ⟨hr, hb⟩
    · simp [hs, hr, hb]
  · -- `FLASH_WS`
    obtain rfl := Host.Outcome.next.inj h
    cases raiseFirst s <;> simp
  · -- `PRESC_PRE`
    obtain rfl := Host.Outcome.next.inj h
    trivial
  · -- `SW_SET`
    obtain rfl := Host.Outcome.next.inj h
    trivial
  · -- `SW_WAIT`
    obtain rfl := Host.Outcome.next.inj h
    obtain ⟨hr, e⟩ | ⟨hr, hb, e⟩ | ⟨hr, hb, e⟩ := poll_cases (s.cfgr.sws == s.plan.src) Config.params.nSw
      (if raiseFirst s then Code.emit else Code.prescPost) .clockSwitch s <;> rw [e]
    · cases raiseFirst s <;> exact ⟨eq_of_beq hr, rfl⟩
    · exact ⟨ne_of_beq_false hr, hb⟩
    · simp [hs, ne_of_beq_false hr, hb]
  · -- `PRESC_POST`
    obtain rfl := Host.Outcome.next.inj h
    trivial
  · -- `EMIT`
    obtain rfl := Host.Outcome.next.inj h
    trivial
  · -- `DONE`
    obtain rfl := Host.Outcome.next.inj h
    simp [hs]
  · -- `FAILED`
    obtain rfl := Host.Outcome.next.inj h
    simp [hs]
  · -- `RSVD14`
    obtain rfl := Host.Outcome.next.inj h
    trivial
  · -- `RSVD15`
    obtain rfl := Host.Outcome.next.inj h
    trivial

/-- A sequencer step ends in `IDLE` only where nothing has started. -/
theorem idle_of_successor_idle {s t : State} (h : exec (decodeUop s.status.state) s = .next t)
    (ht : t.status.state = Code.idle) : s.status.state = Code.idle ∧ s.status.startPend = false := by
  have row := stateFollowsTheSuccessorTable s t h
  rw [ht] at row
  rcases state_cases s.status.state with hs | hs | hs | hs | hs | hs | hs | hs | hs | hs | hs | hs | hs | hs | hs | hs <;>
    rw [hs] at row ⊢
  · exact ⟨rfl, row⟩
  all_goals exact row.elim

/-! ## The lock of the plan (rules R21, R101, R213.7) -/

/-- The plan is unlocked exactly until a commit is accepted (rules R60, R181). -/
theorem unlocked_eq_not_committed (s : State) : unlocked s = !committed s := by
  simp [unlocked, committed, bne, Bool.and_comm]

/-- Two plans with the same seven words are the same. -/
theorem plan_ext {p q : Plan} (h : ∀ r, p.get r = q.get r) : p = q := by
  obtain ⟨c, f⟩ := p
  obtain ⟨c', f'⟩ := q
  congr
  · exact h .cfg
  · cases f
    cases f'
    congr
    exacts [h (.freq .sysclk), h (.freq .ahb), h (.freq .apb1), h (.freq .apb2), h (.freq .pll), h (.freq .usb)]

/-- No micro-operation is listed for a plan register (rules R20, R21). -/
theorem mayWrite_plan_of_uop {i : Instr} (hf : formatOf i = .uop) (q : PlanReg) : mayWrite i (.plan q) = false := by
  cases i with
  | rdreg | wrplan | start | wrign | commit => cases hf
  | _ => rfl

/-- A micro-operation leaves the plan. -/
theorem uop_plan {i : Instr} {s t : State} (hf : formatOf i = .uop) (h : exec i s = .next t) : t.plan = s.plan :=
  plan_ext fun q => (exec_frame h).plan q (mayWrite_plan_of_uop hf q)

/-- A host command leaves the plan and `START_PEND` of a committed state (rules R100, R101). -/
theorem host_exec_committed {i : Instr} {s t : State} (hf : formatOf i ≠ .uop) (hc : committed s = true)
    (h : exec i s = .next t) : t.plan = s.plan ∧ committed t = true := by
  obtain ⟨p, b, w, q, rfl, locked, -⟩ := host_exec_cases hf h
  obtain ⟨rfl, rfl⟩ := locked (by simp [unlocked_eq_not_committed, hc])
  exact ⟨rfl, hc⟩

/-- A transition of the clock tree writes `CR` or `CFGR` only (rule R163). -/
theorem envStep_update (e : EnvEvent) (s : State) : ∃ a b, envStep e s = { s with cr := a, cfgr := b } := by
  obtain ⟨-, he⟩ | ⟨-, he⟩ := envStep_cases e s <;> rw [he]
  · cases e <;> exact ⟨_, _, rfl⟩
  · exact ⟨s.cr, s.cfgr, rfl⟩

/-- Settles O35: move by move; the sequencer writes no plan register and does not come back to `IDLE`, and the host's writes and
starts are ignored. -/
theorem thePlanIsLockedOnceCommitted : Obligations.ThePlanIsLockedOnceCommitted := by
  intro m s t hm hc h
  obtain ⟨-, h⟩ | ⟨tr, i, -, hd, h⟩ | ⟨p, -, h⟩ | ⟨-, rfl⟩ | ⟨e, -, rfl⟩ | ⟨rfl, -⟩ := applyMove_cases h
  · refine ⟨uop_plan (formatOf_decodeUop _) h, ?_⟩
    by_cases ht : t.status.state = Code.idle
    · obtain ⟨idle, unpended⟩ := idle_of_successor_idle h ht
      simp [committed, idle, unpended] at hc
    · simpa [committed] using .inr ht
  · exact host_exec_committed (by simp [decodeHost_format hd]) hc h
  · exact host_exec_committed (by simp [formatOf]) hc h
  · obtain ⟨p, b, e, locked, -⟩ := hostNext_cases Config.params s
    obtain ⟨rfl, rfl⟩ := locked (by simp [unlocked_eq_not_committed, hc])
    rw [e]
    exact ⟨rfl, hc⟩
  · obtain ⟨a, b, he⟩ := envStep_update e s
    rw [he]
    exact ⟨rfl, hc⟩
  · exact absurd rfl hm

/-! ## The record (rules R22, R150) -/

theorem decodeUop_eq_emit (c : BitVec 4) : decodeUop c = .emit ↔ c = 11#4 := by
  revert c; decide

/-- No move but the sequencer's `EMIT` and reset touches the record. -/
theorem sameRecord_of_not_emit {m : Move} {s t : State} (hm : m ≠ .reset) (he : ¬ (m = .seq ∧ s.status.state = 11#4))
    (h : applyMove m s = .next t) : SameRecord s t := by
  obtain ⟨rfl, h⟩ | ⟨tr, i, -, hd, h⟩ | ⟨p, -, h⟩ | ⟨-, rfl⟩ | ⟨e, -, rfl⟩ | ⟨rfl, -⟩ := applyMove_cases h
  · exact (exec_frame h).record fun hi => he ⟨rfl, (decodeUop_eq_emit _).mp hi⟩
  · have host := decodeHost_format hd
    exact (exec_frame h).record fun hi => by simp [hi, formatOf] at host
  · exact (exec_frame h).record (by simp)
  · obtain ⟨p, b, e, -⟩ := hostNext_cases Config.params s
    rw [e]
    exact ⟨rfl, rfl, rfl, rfl⟩
  · obtain ⟨a, b, he⟩ := envStep_update e s
    rw [he]
    exact ⟨rfl, rfl, rfl, rfl⟩
  · exact absurd rfl hm

/-- Settles O38: what changes the record is `EMIT`, and its effect is rule R150's. -/
theorem onlyEmitCreatesTheRecord : Obligations.OnlyEmitCreatesTheRecord := by
  intro m s t hm h changed
  by_cases hemit : m = .seq ∧ s.status.state = 11#4
  · obtain ⟨rfl, hs⟩ := hemit
    simp only [applyMove, hs] at h
    obtain rfl := Host.Outcome.next.inj h
    exact ⟨rfl, hs, rfl, rfl⟩
  · obtain ⟨fc, valid, pll, usb⟩ := sameRecord_of_not_emit hm hemit h
    simp [fc, valid, pll, usb] at changed

end Sys2Proof.Machine
end

section
/-! PROOFS of the family 20_memory: the host's view of the register space. Which accesses are admitted (rule R62), the word a read
returns (rules R60, R72, R102), its bytes (rule R63), and what no host command changes (rule R66). -/

namespace Sys2Proof

/-! ## Admission (rule R62) -/

/-- A transaction rule R62 admits is a command. -/
theorem decodeHost_of_admitted {t : Transaction} (h : t.width = 4 ∧ t.off % 4 = 0 ∧ t.off < 0x80) :
    ∃ i, decodeHost t = .ok i := by
  obtain ⟨d, off, width, v⟩ := t
  obtain ⟨rfl, aligned, inside⟩ := h
  have word : off = 4 * (BitVec.ofNat 5 (off / 4)).toNat := by
    simp only [BitVec.toNat_ofNat] at *
    omega
  rw [word]
  exact ⟨_, decodeHost_word d _ v⟩

/-- Any other is none: its width, its place or its alignment says why. -/
theorem decodeHost_of_not_admitted {t : Transaction} (h : ¬ (t.width = 4 ∧ t.off % 4 = 0 ∧ t.off < 0x80)) :
    ∃ e, decodeHost t = .error e := by
  unfold decodeHost
  split_ifs with width outside misaligned
  · exact ⟨.hostWidth, rfl⟩
  · exact ⟨.hostOutside, rfl⟩
  · exact ⟨.hostMisaligned, rfl⟩
  · exact absurd ⟨not_not.mp width, not_not.mp misaligned, Nat.lt_of_not_le outside⟩ h

namespace Machine

/-- Settles O5: an admitted transaction is decoded and run, any other is refused with the decoder's reason. -/
theorem onlyAlignedWordAccessesAreAdmitted : Obligations.OnlyAlignedWordAccessesAreAdmitted := by
  intro t s
  refine ⟨fun admitted => ?runs, fun not_admitted => ?refused⟩
  case runs =>
    obtain ⟨i, hi⟩ := decodeHost_of_admitted admitted
    exact ⟨i, hi, applyMove_host_ok hi s⟩
  case refused =>
    obtain ⟨e, he⟩ := decodeHost_of_not_admitted not_admitted
    exact ⟨e, applyMove_host_error he s⟩

/-! ## Words and bytes (rules R60, R63) -/

/-- `RDREG` delivers the word read to the host and changes nothing else (rule R102; log 5). -/
theorem exec_rdreg (o : BitVec 5) (s : State) :
    exec (.rdreg o) s = .next { s with hostRdata := memRead Config.params s o } := rfl

/-- Settles O23: in each of the 32 words of the space, the map's register is the one rule R60 names. -/
theorem rdregReturnsTheMappedWord : Obligations.RdregReturnsTheMappedWord := by
  intro o s
  rw [exec_rdreg]
  obtain ⟨⟨k, hk⟩⟩ := o
  interval_cases k <;> rfl

/-- Byte `j` of a word of the register space is its bits from `8 * j` on (rule R63). -/
theorem byteAt_word (cfg : Config.Params) (s : State) (o : BitVec 5) {j : Nat} (hj : j < 4) :
    byteAt cfg s (4 * o.toNat + j) = (memRead cfg s o).extractLsb' (8 * j) 8 := by
  have ho := o.isLt
  have inside : 4 * o.toNat + j < 0x80 := by omega
  have index : (4 * o.toNat + j) / 4 = o.toNat := by omega
  have place : (4 * o.toNat + j) % 4 = j := by omega
  simp only [byteAt, inside, if_true, index, place, BitVec.ofNat_toNat, BitVec.setWidth_eq]

/-- The four bytes of a word, highest first, are the word. -/
theorem bytes_append (w : Word) :
    w.extractLsb' 24 8 ++ w.extractLsb' 16 8 ++ w.extractLsb' 8 8 ++ w.extractLsb' 0 8 = w := by
  iterate 3 rw [BitVec.extractLsb'_append_extractLsb'_eq_extractLsb' (by rfl)]
  exact BitVec.extractLsb'_eq_self

/-- Settles O28: each byte is its part of the word, and the four parts make up the word. -/
theorem bytesSpellTheWordLittleEndian : Obligations.BytesSpellTheWordLittleEndian := by
  intro cfg s o
  have byte {j : Nat} (hj : j < 4) := byteAt_word cfg s o hj
  have lowest : byteAt cfg s (4 * o.toNat) = (memRead cfg s o).extractLsb' 0 8 := byte (j := 0) (by decide)
  rw [byte (by decide), byte (by decide), byte (by decide), lowest]
  exact bytes_append _

/-! ## What no host command changes (rule R66) -/

/-- Settles O32: a host command writes the plan, `START_PEND`, and the host's own fields at most; so does the next command of a
`COMMIT`. -/
theorem theHostNeverWritesControlRegisters : Obligations.TheHostNeverWritesControlRegisters := by
  rintro s t (⟨i, hf, h⟩ | h)
  · obtain ⟨p, b, w, q, rfl, -⟩ := host_exec_cases hf h
    exact ⟨rfl, rfl, rfl, rfl, rfl, rfl, rfl⟩
  · obtain rfl := Host.Outcome.next.inj h
    obtain ⟨p, b, e, -⟩ := hostNext_cases Config.params s
    rw [e]
    exact ⟨rfl, rfl, rfl, rfl, rfl, rfl, rfl⟩

end Machine

end Sys2Proof
end

section
/-! PROOFS of the family 30_encoding: the decoder and the encoder, format by format (rules R80 to R84, R92), and what `START`
accepts (rules R88, R101). For each format, one lemma says which bytes decode, and to what. -/

namespace Sys2Proof

/-! ## Format UOP (rule R81) -/

/-- A micro-operation is the one its code names. -/
theorem exists_decodeUop_of_formatOf {i : Instr} (h : formatOf i = .uop) : ∃ c, i = decodeUop c := by
  cases i with
  | rdreg | wrplan | start | wrign | commit => cases h
  | idle => exact ⟨Code.idle, rfl⟩
  | hseEn => exact ⟨Code.hseEn, rfl⟩
  | hseWait => exact ⟨Code.hseWait, rfl⟩
  | pllCfg => exact ⟨Code.pllCfg, rfl⟩
  | pllEn => exact ⟨Code.pllEn, rfl⟩
  | pllWait => exact ⟨Code.pllWait, rfl⟩
  | flashWs => exact ⟨Code.flashWs, rfl⟩
  | prescPre => exact ⟨Code.prescPre, rfl⟩
  | swSet => exact ⟨Code.swSet, rfl⟩
  | swWait => exact ⟨Code.swWait, rfl⟩
  | prescPost => exact ⟨Code.prescPost, rfl⟩
  | emit => exact ⟨Code.emit, rfl⟩
  | done => exact ⟨Code.done, rfl⟩
  | failed => exact ⟨Code.failed, rfl⟩
  | rsvd14 => exact ⟨Code.rsvd14, rfl⟩
  | rsvd15 => exact ⟨Code.rsvd15, rfl⟩

/-- A micro-operation is encoded in its code. -/
@[simp] theorem encode_decodeUop (c : BitVec 4) : encode (decodeUop c) = encodeUop c := by
  revert c; decide

/-- Every micro-operation is well-formed. -/
@[simp] theorem wellFormed_decodeUop (c : BitVec 4) : (decodeUop c).wellFormed = true := by
  revert c; decide

/-- The bytes of format `UOP`: one byte, a code below four zero bits. -/
theorem decode_uop_eq_ok {bytes : List Byte} {i : Instr} :
    decode .uop bytes = .ok i ↔ ∃ c, bytes = encodeUop c ∧ i = decodeUop c := by
  have parts (b : Byte) : b.extractLsb' 4 4 ++ b.extractLsb' 0 4 = b := by
    rw [BitVec.extractLsb'_append_extractLsb'_eq_extractLsb' (by rfl)]
    exact BitVec.extractLsb'_eq_self
  constructor
  · intro h
    simp only [decode] at h
    split at h
    · rename_i b
      split at h
      · rename_i high
        exact ⟨b.extractLsb' 0 4, by rw [encodeUop, ← high, parts], (Except.ok.inj h).symm⟩
      · cases h
    · cases h
  · rintro ⟨c, rfl, rfl⟩
    revert c; decide

/-! ## Format HOST (rules R62, R84) -/

/-- The host command a 32-bit transaction at word `o` is. -/
def hostCommand (d : Dir) (o : BitVec 5) (v : Word) : Instr :=
  match d with
  | .read => .rdreg o
  | .write => decodeWrite o v

/-- Only an aligned 32-bit transaction inside the space is admitted, and it is the command of its word. -/
theorem decodeHost_eq_ok {t : Transaction} {i : Instr} :
    decodeHost t = .ok i
      ↔ ∃ d o v, t = { dir := d, off := 4 * o.toNat, width := 4, data := v } ∧ i = hostCommand d o v := by
  constructor
  · intro h
    have admitted : t.width = 4 ∧ t.off % 4 = 0 ∧ t.off < 0x80 := by
      by_contra not_admitted
      obtain ⟨e, he⟩ := decodeHost_of_not_admitted not_admitted
      rw [he] at h
      cases h
    obtain ⟨d, off, width, v⟩ := t
    obtain ⟨rfl, aligned, inside⟩ := admitted
    obtain ⟨o, rfl⟩ : ∃ o : BitVec 5, off = 4 * o.toNat := by
      refine ⟨BitVec.ofNat 5 (off / 4), ?_⟩
      simp only [BitVec.toNat_ofNat] at *
      omega
    rw [decodeHost_word] at h
    exact ⟨d, o, v, rfl, (Except.ok.inj h).symm⟩
  · rintro ⟨d, o, v, rfl, rfl⟩
    exact decodeHost_word d o v

/-- Packing what was unpacked gives the 40 bits back. -/
theorem packTransaction_unpackTransaction (b : BitVec 40) : packTransaction (unpackTransaction b) = b := by
  have direction : BitVec.ofBool ((unpackTransaction b).dir == .write) = b.extractLsb' 39 1 := by
    apply BitVec.eq_of_getLsbD_eq
    intro i hi
    obtain rfl : i = 0 := by omega
    cases h : b[39] <;> simp [unpackTransaction, h]
  rw [packTransaction, direction]
  simp only [unpackTransaction, BitVec.ofNat_toNat, BitVec.setWidth_eq]
  iterate 2 rw [BitVec.extractLsb'_append_extractLsb'_eq_extractLsb' (by rfl)]
  exact BitVec.extractLsb'_eq_self

/-- Five bytes are the encoding of the transaction they unpack to. -/
theorem leBytes_packTransaction_unpackTransaction {bytes : List Byte} (h : bytes.length = 5) :
    leBytes 5 (packTransaction (unpackTransaction (BitVec.ofNat 40 (ofLeBytes bytes)))).toNat = bytes := by
  have inside : ofLeBytes bytes < 2 ^ 40 := by simpa [h] using ofLeBytes_lt bytes
  rw [packTransaction_unpackTransaction, BitVec.toNat_ofNat, Nat.mod_eq_of_lt inside, ← h, leBytes_ofLeBytes]

/-- The bytes of format `HOST`: a packed transaction at a word of the space. -/
theorem decode_host_eq_ok {bytes : List Byte} {i : Instr} :
    decode .host bytes = .ok i ↔ ∃ d o v, bytes = encodeHost d o v ∧ i = hostCommand d o v := by
  constructor
  · intro h
    simp only [decode] at h
    split at h
    · rename_i length
      obtain ⟨d, o, v, unpacked, rfl⟩ := decodeHost_eq_ok.mp h
      refine ⟨d, o, v, ?_, rfl⟩
      rw [encodeHost, ← unpacked, leBytes_packTransaction_unpackTransaction length]
    · cases h
  · rintro ⟨d, o, v, rfl, rfl⟩
    have inside : 4 * o.toNat < 128 := by omega
    refine (decode_host_leBytes _).trans ?_
    rw [BitVec.ofNat_toNat, BitVec.setWidth_eq, unpackTransaction_packTransaction d _ v inside]
    exact decodeHost_word d o v

/-! ## Writes (rules R84, R103) -/

/-- The word index of a plan register is the only one it stands at (rule R60). -/
theorem planRegAt_eq_some {o : BitVec 5} {r : PlanReg} : planRegAt o = some r ↔ o = planRegIndex r := by
  constructor
  · intro h
    have inverse : ∀ o, ∀ r ∈ planRegAt o, o = planRegIndex r := by decide
    exact inverse o r h
  · rintro rfl
    exact planRegAt_planRegIndex r

/-- A write is ignored where there is neither a plan register nor a `START`. -/
theorem ignoredWrite_iff {o : BitVec 5} {v : Word} :
    ignoredWrite o v = true ↔ planRegAt o = none ∧ ¬ (o = 4#5 ∧ v.getLsbD 0 = true) := by
  simp [ignoredWrite, planRegAt_eq_none, imp_iff_not_or]

/-- The three kinds of writes. -/
theorem decodeWrite_cases (o : BitVec 5) (v : Word) :
    (∃ r, o = planRegIndex r ∧ decodeWrite o v = .wrplan r v)
    ∨ (o = 4#5 ∧ v.getLsbD 0 = true ∧ decodeWrite o v = .start)
    ∨ (ignoredWrite o v = true ∧ decodeWrite o v = .wrign o v) := by
  cases h : planRegAt o with
  | some r => exact .inl ⟨r, planRegAt_eq_some.mp h, by simp only [decodeWrite, h]⟩
  | none =>
    by_cases hs : o = 4#5 ∧ v.getLsbD 0 = true
    · exact .inr (.inl ⟨hs.1, hs.2, by simp only [decodeWrite, h, if_pos hs]⟩)
    · exact .inr (.inr ⟨ignoredWrite_iff.mpr ⟨h, hs⟩, by simp only [decodeWrite, h, if_neg hs]⟩)

@[simp] theorem decodeWrite_planRegIndex (r : PlanReg) (v : Word) : decodeWrite (planRegIndex r) v = .wrplan r v := by
  simp only [decodeWrite, planRegAt_planRegIndex]

theorem decodeWrite_of_ignoredWrite {o : BitVec 5} {v : Word} (h : ignoredWrite o v = true) :
    decodeWrite o v = .wrign o v := by
  obtain ⟨no_plan, no_start⟩ := ignoredWrite_iff.mp h
  simp only [decodeWrite, no_plan, if_neg no_start]

/-- Whatever a transaction stands for is well-formed. -/
theorem wellFormed_hostCommand (d : Dir) (o : BitVec 5) (v : Word) : (hostCommand d o v).wellFormed = true := by
  cases d with
  | read => rfl
  | write =>
    obtain ⟨r, -, e⟩ | ⟨-, -, e⟩ | ⟨ignored, e⟩ := decodeWrite_cases o v <;> rw [hostCommand, e]
    · rfl
    · rfl
    · exact ignored

/-- Whatever a transaction stands for is of format `HOST`. -/
theorem formatOf_hostCommand (d : Dir) (o : BitVec 5) (v : Word) : formatOf (hostCommand d o v) = .host :=
  decodeHost_format (decodeHost_word d o v)

/-- A well-formed host command is encoded in a transaction that stands for it. -/
theorem exists_encodeHost_of_formatOf {i : Instr} (hf : formatOf i = .host) (hw : i.wellFormed = true) :
    ∃ d o v, encode i = encodeHost d o v ∧ i = hostCommand d o v := by
  cases i with
  | rdreg o => exact ⟨.read, o, 0#32, rfl, rfl⟩
  | wrplan r v => exact ⟨.write, planRegIndex r, v, rfl, (decodeWrite_planRegIndex r v).symm⟩
  | start => exact ⟨.write, 4#5, 1#32, rfl, rfl⟩
  | wrign o v => exact ⟨.write, o, v, rfl, (decodeWrite_of_ignoredWrite hw).symm⟩
  | _ => cases hf

/-- A write that is no `START` is encoded in all its bits. -/
theorem encode_decodeWrite {o : BitVec 5} {v : Word} (h : decodeWrite o v ≠ .start) :
    encode (decodeWrite o v) = encodeHost .write o v := by
  obtain ⟨r, rfl, e⟩ | ⟨-, -, e⟩ | ⟨-, e⟩ := decodeWrite_cases o v
  · rw [e, encode]
  · exact absurd e h
  · rw [e, encode]

/-! ## Format PLAN (rules R82, R83, R92) -/

/-- The bytes of format `PLAN`: the seven words of a plan whose reserved bits are zero. -/
theorem decode_plan_eq_ok {bytes : List Byte} {i : Instr} :
    decode .plan bytes = .ok i ↔ ∃ p : Plan, p.reservedZero = true ∧ bytes = encode (.commit p) ∧ i = .commit p := by
  constructor
  · intro h
    simp only [decode, decodePlan] at h
    split_ifs at h with length reserved
    have inside : ofLeBytes bytes < 2 ^ 224 := by simpa [length] using ofLeBytes_lt bytes
    refine ⟨_, reserved, ?_, (Except.ok.inj h).symm⟩
    rw [encode, planBits_planOfNat inside, ← length, leBytes_ofLeBytes]
  · rintro ⟨p, reserved, rfl, rfl⟩
    have words : planOfNat ((planBits p).toNat % 256 ^ 28) = p := by rw [planOfNat_mod, planOfNat_planBits]
    simp only [encode, decode, leBytes_length, if_true, ofLeBytes_leBytes, words, decodePlan, reserved]

/-! ## Decoder and encoder -/

/-- Settles O2, format by format: the encoding is among the bytes that decode, to the instruction encoded. -/
theorem decodeEncodeAgree : Obligations.DecodeEncodeAgree := by
  intro i hw
  cases hf : formatOf i with
  | uop =>
    obtain ⟨c, rfl⟩ := exists_decodeUop_of_formatOf hf
    exact decode_uop_eq_ok.mpr ⟨c, encode_decodeUop c, rfl⟩
  | host => exact decode_host_eq_ok.mpr (exists_encodeHost_of_formatOf hf hw)
  | plan =>
    cases i with
    | commit p => exact decode_plan_eq_ok.mpr ⟨p, hw, rfl, rfl⟩
    | _ => cases hf

/-- Settles O3, format by format: what the bytes that decode stand for. -/
theorem decodedInstructionsAreWellFormed : Obligations.DecodedInstructionsAreWellFormed := by
  intro f bytes i h
  cases f with
  | uop =>
    obtain ⟨c, -, rfl⟩ := decode_uop_eq_ok.mp h
    exact ⟨wellFormed_decodeUop c, formatOf_decodeUop c⟩
  | host =>
    obtain ⟨d, o, v, -, rfl⟩ := decode_host_eq_ok.mp h
    exact ⟨wellFormed_hostCommand d o v, formatOf_hostCommand d o v⟩
  | plan =>
    obtain ⟨p, reserved, -, rfl⟩ := decode_plan_eq_ok.mp h
    exact ⟨reserved, rfl⟩

/-- Settles O4, format by format: the bytes that decode are an encoding, but for the bits that a read and a `START` ignore. -/
theorem encodeDecodeAgree : Obligations.EncodeDecodeAgree := by
  intro f bytes i h not_start not_read
  cases f with
  | uop =>
    obtain ⟨c, rfl, rfl⟩ := decode_uop_eq_ok.mp h
    exact encode_decodeUop c
  | host =>
    obtain ⟨d, o, v, rfl, rfl⟩ := decode_host_eq_ok.mp h
    cases d with
    | read => exact absurd rfl (not_read o)
    | write => exact encode_decodeWrite not_start
  | plan =>
    obtain ⟨p, -, rfl, rfl⟩ := decode_plan_eq_ok.mp h
    rfl

/-- Settles O1: the decoder is run on each word. -/
theorem specWordsDecode : Obligations.SpecWordsDecode :=
  ⟨rfl, rfl, rfl, rfl, rfl, rfl, rfl, rfl, rfl, rfl, rfl⟩

namespace Machine

/-! ## `START` (rules R88, R101) -/

/-- `wf`, clause by clause on the bits of the plan words (rule R88). -/
theorem planWf_iff (cfg : Config.Params) (p : Plan) :
    planWf cfg p = true
      ↔ p.cfg &&& 0xF000C00C#32 = 0#32
        ∧ p.cfg.extractLsb' 0 2 ≠ 0b11#2
        ∧ (p.cfg.extractLsb' 25 3).toNat < cfg.wsCeil.length
        ∧ (cfg.hasUsbpre = true ∨ p.cfg.getLsbD 22 = false ∧ p.cfg.getLsbD 23 = false)
        ∧ (cfg.hasPlldiv = true ∨ p.cfg.getLsbD 17 = false)
        ∧ p.f.sysclk ≠ 0#32 ∧ p.f.ahb ≠ 0#32 ∧ p.f.apb1 ≠ 0#32 ∧ p.f.apb2 ≠ 0#32
        ∧ (p.cfg.extractLsb' 0 2 ≠ 0b10#2 ∨ p.f.pll ≠ 0#32)
        ∧ (p.cfg.getLsbD 23 = false ∨ p.f.usb ≠ 0#32) := by
  simp only [planWf, Plan.reservedZero, Plan.pllSelected, Bool.and_eq_true, Bool.or_eq_true, Bool.not_eq_true', bne_iff_ne,
    beq_iff_eq, beq_eq_false_iff_ne, decide_eq_true_eq, and_assoc]
  rfl

/-- The plan is unlocked in `IDLE` with no start pending (rule R181). -/
theorem unlocked_iff (s : State) : unlocked s = true ↔ s.status.state = 0#4 ∧ s.status.startPend = false := by
  simp [unlocked]

/-- Settles O22: `START` is accepted exactly when unlocked and `wf`. -/
theorem startAcceptsExactlyWellFormedPlans : Obligations.StartAcceptsExactlyWellFormedPlans := by
  intro s
  have effect : exec .start s = .next (acceptStart Config.params s) := rfl
  simp only [effect, acceptStart, Bool.and_eq_true, unlocked_iff, planWf_iff, and_assoc]

end Machine

end Sys2Proof
end

section
/-! PROOFS of the family 40_host_commands: a plan write (rule R100), a write that does nothing (rule R103), and the eight host steps
of a `COMMIT`, with the sequencer steps that may fall between them (rules R5, R104). -/

namespace Sys2Proof.Machine

/-- `WRPLAN` stores its word while unlocked (rule R100). -/
theorem exec_wrplan_of_unlocked (r : PlanReg) (v : Word) {s : State} (hu : unlocked s = true) :
    exec (.wrplan r v) s = .next { s with plan := s.plan.set r v } :=
  congrArg Host.Outcome.next (if_pos hu)

/-- Locked, it changes nothing. -/
theorem exec_wrplan_of_locked (r : PlanReg) (v : Word) {s : State} (hl : unlocked s = false) :
    exec (.wrplan r v) s = .next s :=
  congrArg Host.Outcome.next (if_neg (by simp [hl]))

/-- The lock in the words of rule R100. -/
theorem locked_iff (s : State) : unlocked s = false ↔ ¬ (s.status.state = 0#4 ∧ s.status.startPend = false) := by
  rw [← unlocked_iff, Bool.not_eq_true]

/-- Settles O21: on each side of the lock, the plan with that one word replaced, or the plan as it was. -/
theorem wrplanStoresWhileUnlocked : Obligations.WrplanStoresWhileUnlocked := by
  intro r v s
  refine ⟨fun idle unpended => ?unlocked, fun locked => ?locked⟩
  case unlocked =>
    exact ⟨s.plan.set r v, exec_wrplan_of_unlocked r v ((unlocked_iff s).mpr ⟨idle, unpended⟩), plan_get_set_self s.plan r v,
      fun _ => plan_get_set_other s.plan v⟩
  case locked => exact exec_wrplan_of_locked r v ((locked_iff s).mpr locked)

/-- Settles O24: the meaning of `WRIGN` is the state it was given. -/
theorem wrignChangesNothing : Obligations.WrignChangesNothing := fun _ _ _ => rfl

/-! ## The first host step of a `COMMIT` (rule R104) -/

/-- A `COMMIT` puts its eight commands behind those still to come, and is one host step (log 11). -/
theorem exec_commit (p : Plan) (s : State) :
    exec (.commit p) s = applyMove .hostNext { s with hostProgram := s.hostProgram ++ commitCommands p } := rfl

/-- That step runs the first of them all: the next command of a `COMMIT` under way, or its own first one (rule R104). -/
theorem exec_commit_of_append {p : Plan} {s : State} {c : CommitCommand} {cs : List CommitCommand}
    (h : s.hostProgram ++ commitCommands p = c :: cs) :
    exec (.commit p) s = exec (commitInstr c) { s with hostProgram := cs } := by
  rw [exec_commit]
  exact applyMove_hostNext_cons (s := { s with hostProgram := _ }) h

/-- With no other under way, beginning a `COMMIT` is a `hostNext` with its eight commands to come. -/
theorem runMoves_commit_cons {s : State} (h : s.hostProgram = []) (p : Plan) (ms : List Move) :
    runMoves (.commit p :: ms) s = runMoves (.hostNext :: ms) { s with hostProgram := commitCommands p } := by
  have begun : applyMove (.commit p) s = applyMove .hostNext { s with hostProgram := commitCommands p } := by
    rw [applyMove, exec_commit, h, List.nil_append]
  rw [runMoves, begun, runMoves]

/-! ## Sequencer steps between the host steps -/

/-- The sequencer waits while the plan is unlocked: `IDLE` with no start pending (rule R110). -/
theorem applyMove_seq_of_unlocked {s : State} (hu : unlocked s = true) : applyMove .seq s = .next s := by
  obtain ⟨idle, unpended⟩ := (unlocked_iff s).mp hu
  rw [applyMove, idle]
  exact congrArg Host.Outcome.next (if_neg (by simp [unpended]))

/-- A plan write does not lock. -/
theorem unlocked_writePlan (r : PlanReg) (v : Word) (s : State) : unlocked (writePlan r v s) = unlocked s := by
  obtain ⟨-, e⟩ | ⟨-, e⟩ := writePlan_cases r v s <;> rw [e]
  rfl

/-- Nor does it touch the commands to come. -/
theorem hostProgram_writePlan (r : PlanReg) (v : Word) (s : State) : (writePlan r v s).hostProgram = s.hostProgram := by
  obtain ⟨-, e⟩ | ⟨-, e⟩ := writePlan_cases r v s <;> rw [e]

/-- While the host's next commands are plan writes the plan stays unlocked, so the sequencer steps between them drop out of the
run (rule R104). -/
theorem runMoves_writes_append {ms : List Move} {cs q : List CommitCommand} {s : State} (rest : List Move)
    (hu : unlocked s = true) (hp : s.hostProgram = cs ++ q) (writes : .start ∉ cs)
    (hms : ms.filter (fun m => decide (m ≠ .seq)) = List.replicate cs.length .hostNext) :
    runMoves (ms ++ rest) s = runMoves (List.replicate cs.length .hostNext ++ rest) s := by
  induction ms generalizing cs s with
  | nil => rw [← hms, List.filter_nil]
  | cons m ms ih =>
    by_cases hm : m = .seq
    · subst hm
      rw [List.cons_append, runMoves, applyMove_seq_of_unlocked hu]
      exact ih hu hp writes hms
    · rw [List.filter_cons_of_pos (by simpa using hm)] at hms
      cases cs with
      | nil => cases hms
      | cons c cs =>
        obtain ⟨rfl, later⟩ := List.cons.inj hms
        cases c with
        | start => exact absurd (List.mem_cons_self ..) writes
        | write r v =>
          have made : applyMove .hostNext s = .next (writePlan r v { s with hostProgram := cs ++ q }) :=
            applyMove_hostNext_cons hp
          rw [List.length_cons, List.replicate_succ, List.cons_append, List.cons_append, runMoves, runMoves, made]
          exact ih ((unlocked_writePlan ..).trans hu) (hostProgram_writePlan ..) (fun h => writes (.tail _ h)) later

/-- From a state with no `COMMIT` under way, the eight host steps of one leave what its eight commands do (rule R104). -/
theorem runMoves_commit {s : State} (h : s.hostProgram = []) (p : Plan) :
    runMoves (.commit p :: List.replicate 7 .hostNext) s
      = .next (if unlocked s then { s with plan := p, status.startPend := planWf Config.params p } else s) := by
  rw [runMoves_commit_cons h]
  refine (runMoves_hostNext (commitCommands p) s).trans ?_
  rw [commitCommands_run]
  cases unlocked s <;> simp [← h]

/-- From an unlocked one, sequencer steps before the last host step make no difference. -/
theorem runMoves_commit_with_seq {s : State} {ms : List Move} (h : s.hostProgram = []) (hu : unlocked s = true) (p : Plan)
    (hms : ms.filter (fun m => decide (m ≠ .seq)) = List.replicate 7 .hostNext) (last : ms.getLast? = some .hostNext) :
    runMoves (.commit p :: ms) s = runMoves (.commit p :: List.replicate 7 .hostNext) s := by
  obtain ⟨init, rfl⟩ := List.getLast?_eq_some_iff.mp last
  have before_start : init.filter (fun m => decide (m ≠ .seq)) = List.replicate 6 .hostNext := by
    rw [List.filter_append] at hms
    exact List.append_cancel_right (hms.trans (List.replicate_succ' (n := 6)))
  rw [runMoves_commit_cons h, runMoves_commit_cons h]
  exact runMoves_writes_append (ms := .hostNext :: init) (cs := (commitCommands p).dropLast) (q := [.start]) [.hostNext] hu rfl
    (by simp [commitCommands, PlanReg.all]) (congrArg (Move.hostNext :: ·) before_start)

/-- Settles O25, clause by clause: the first host step, the same behind each kind of command of a `COMMIT` under way, and the
eight host steps on each side of the lock. -/
theorem commitIsSevenWritesAndAStart : Obligations.CommitIsSevenWritesAndAStart := by
  intro p s others
  refine ⟨fun h => ?first, fun _ _ _ h => ?behindWrite, fun _ h => ?behindStart,
    fun h idle unpended ms hms last => ?unlocked, fun h locked => ?locked⟩
  case first =>
    rw [exec_commit_of_append (c := .write .cfg p.cfg) (cs := others) (by rw [h]; rfl), commitInstr]
    split
    case isTrue hu => exact exec_wrplan_of_unlocked _ _ ((unlocked_iff _).mpr hu)
    case isFalse hl => exact exec_wrplan_of_locked _ _ ((locked_iff _).mpr hl)
  case behindWrite => exact exec_commit_of_append (by rw [h]; rfl)
  case behindStart => exact exec_commit_of_append (by rw [h]; rfl)
  case unlocked =>
    have hu := (unlocked_iff s).mpr ⟨idle, unpended⟩
    rw [runMoves_commit_with_seq h hu p hms last, runMoves_commit h, if_pos hu]
  case locked =>
    have hl := (locked_iff s).mpr locked
    rw [runMoves_commit h, hl, if_neg Bool.false_ne_true]

end Sys2Proof.Machine
end

section
/-! PROOFS of the family 41_oscillator_pll: the micro-operations of steps 1 and 2 (rules R110 to R115), and that the one fault of
the machine, `PLL_CFG` with the PLL running (U1), is out of a run's reach (rules R113, R208). -/

namespace Sys2Proof

/-! ## The predicates that decode the plan, on the bits of word 0 (rules R82, R85) -/

theorem pllSelected_iff (p : Plan) : p.pllSelected = true ↔ p.cfg.extractLsb' 0 2 = 0b10#2 := beq_iff_eq

theorem extSelected_iff (p : Plan) :
    p.extSelected = true
      ↔ p.cfg.extractLsb' 0 2 = 0b01#2 ∨ (p.cfg.extractLsb' 0 2 = 0b10#2 ∧ p.cfg.getLsbD 16 = true) := by
  simp only [Plan.extSelected, Plan.src, Plan.pllin, Bool.or_eq_true, Bool.and_eq_true, beq_iff_eq]

namespace Machine

/-! ## Dispatch (rule R110) -/

/-- With no start pending `IDLE` waits. -/
theorem exec_idle_of_unpended {s : State} (h : s.status.startPend = false) : exec .idle s = .next s :=
  congrArg Host.Outcome.next (if_neg (by simp [h]))

/-- With one it takes it and goes to the first step the plan needs. -/
theorem exec_idle_of_pending {s : State} (h : s.status.startPend = true) :
    exec .idle s
      = .next (goto (if s.plan.extSelected then Code.hseEn else if s.plan.pllSelected then Code.pllCfg else Code.flashWs)
          { s with status.startPend := false }) :=
  congrArg Host.Outcome.next (if_pos h)

/-- Settles O8: `IDLE` waits or dispatches, and each of the three ways to go is one branch of the statement. -/
theorem idleWaitsThenDispatches : Obligations.IdleWaitsThenDispatches := by
  intro s
  cases hp : s.status.startPend with
  | false => exact exec_idle_of_unpended hp
  | true =>
    rw [exec_idle_of_pending hp]
    simp only [extSelected_iff, pllSelected_iff, Bool.true_eq_false, if_false]
    split_ifs <;> rfl

/-! ## The enables (rules R111, R114) -/

/-- Settles O9: the meaning of `HSE_EN` is this update. -/
theorem hseEnEnablesTheOscillator : Obligations.HseEnEnablesTheOscillator := fun _ => rfl

/-- Settles O13: the meaning of `PLL_EN` is this update. -/
theorem pllEnEnablesThePll : Obligations.PllEnEnablesThePll := fun _ => rfl

/-! ## The waits (rules R112, R115) -/

/-- A poll in the words of its rules: the flag, then the bound, then one more count, the sum read as a number (log 10). -/
theorem poll_eq (ready : Bool) (bound : Nat) (c : BitVec 4) (e : TimeoutError) (s : State) :
    poll ready bound c e s
      = if ready = true then goto c s
        else if s.cnt.toNat + 1 ≥ bound then raiseError e s
        else { s with cnt := BitVec.ofNat 32 (s.cnt.toNat + 1) } := by
  obtain ⟨hr, h⟩ | ⟨hr, hb, h⟩ | ⟨hr, hb, h⟩ := poll_cases ready bound c e s <;> rw [h, hr]
  · rfl
  · simp [hb]
  · simp [Nat.not_le.mpr hb, BitVec.ofNat_add]

/-- Settles O10: a poll of `HSERDY` whose next step is chosen by `P.SRC`. -/
theorem hseWaitPollsTheReadyFlag : Obligations.HseWaitPollsTheReadyFlag := by
  intro s
  simp only [← pllSelected_iff]
  exact congrArg Host.Outcome.next (poll_eq s.cr.hserdy Config.params.nOsc _ .oscillatorStartup s)

/-- Settles O14: a poll of `PLLRDY`. -/
theorem pllWaitPollsTheLockFlag : Obligations.PllWaitPollsTheLockFlag := fun s =>
  congrArg Host.Outcome.next (poll_eq s.cr.pllrdy Config.params.nPll Code.flashWs .pllLock s)

/-! ## `PLL_CFG` and its fault (rule R113, U1) -/

/-- With the PLL disabled `PLL_CFG` writes the parameter fields. -/
theorem exec_pllCfg_of_off {s : State} (h : s.cr.pllon = false) :
    exec .pllCfg s = .next (goto Code.pllEn (writePllParams Config.params s)) :=
  if_neg (by simp [h])

/-- With the PLL running it is the fault U1. -/
theorem exec_pllCfg_of_on {s : State} (h : s.cr.pllon = true) : exec .pllCfg s = .fault .pllParamsWhileRunning :=
  if_pos h

/-- The hardwired `PLLXTPRE` in the words of rule R27. -/
theorem wirePlldiv_eq (cfg : Config.Params) (b : Bool) :
    wirePlldiv cfg b = if cfg.hasPlldiv = true then b else false := by
  cases h : cfg.hasPlldiv <;> simp [wirePlldiv, h]

/-- Settles O11: the two sides of `PLLON`. -/
theorem pllCfgProgramsTheParameters : Obligations.PllCfgProgramsTheParameters := by
  intro s
  refine ⟨fun off => ?off, exec_pllCfg_of_on⟩
  case off =>
    rw [exec_pllCfg_of_off off, ← wirePlldiv_eq]
    rfl

/-- Every instruction but `PLL_CFG` answers a next state, whatever the state. -/
theorem exec_ne_fault {i : Instr} (hi : i ≠ .pllCfg) (s : State) (r : Fault) : exec i s ≠ .fault r := by
  cases i with
  | pllCfg => exact absurd rfl hi
  | _ => nofun

/-- Settles O12: `PLL_CFG` faults on one side of `PLLON` only, and no other instruction does. -/
theorem onlyPllCfgWithThePllRunningFaults : Obligations.OnlyPllCfgWithThePllRunningFaults := by
  intro i s r
  constructor
  · intro h
    obtain rfl : i = .pllCfg := by
      by_contra hi
      exact exec_ne_fault hi s r h
    cases hon : s.cr.pllon with
    | false =>
      rw [exec_pllCfg_of_off hon] at h
      cases h
    | true =>
      rw [exec_pllCfg_of_on hon] at h
      exact ⟨rfl, rfl, (Host.Outcome.fault.inj h).symm⟩
  · rintro ⟨rfl, hon, rfl⟩
    exact exec_pllCfg_of_on hon

/-! ## The fault is out of a run's reach (rules R113, R208) -/

theorem decodeUop_eq_pllCfg (c : BitVec 4) : decodeUop c = .pllCfg ↔ c = Code.pllCfg := by
  revert c; decide

/-- The host has no way to `PLL_CFG`: a micro-operation is no command of its port (rules R80, R84). -/
theorem exec_host_ne_fault {i : Instr} (hf : formatOf i ≠ .uop) (s : State) (r : Fault) : exec i s ≠ .fault r :=
  exec_ne_fault (by rintro rfl; exact hf rfl) s r

/-- Of all moves only the sequencer's can fault: its step at `PLL_CFG` with the PLL running. -/
theorem applyMove_eq_fault {m : Move} {s : State} {r : Fault} (h : applyMove m s = .fault r) :
    m = .seq ∧ s.status.state = Code.pllCfg ∧ s.cr.pllon = true := by
  cases m with
  | seq =>
    obtain ⟨hi, hon, -⟩ := (onlyPllCfgWithThePllRunningFaults _ s r).mp h
    exact ⟨rfl, (decodeUop_eq_pllCfg _).mp hi, hon⟩
  | host t =>
    cases hd : decodeHost t with
    | ok i =>
      rw [applyMove_host_ok hd] at h
      exact absurd h (exec_host_ne_fault (by simp [decodeHost_format hd]) s r)
    | error e =>
      rw [applyMove_host_error hd] at h
      cases h
  | commit p => exact absurd h (exec_host_ne_fault (i := .commit p) nofun s r)
  | hostNext => cases h
  | env e => cases h
  | reset =>
    simp only [applyMove] at h
    split at h <;> cases h

/-- So a step faults only in `PLL_CFG` with the PLL running: drawing the move changes neither. -/
theorem step_eq_fault {s : State} {r : Fault} (h : step s = .fault r) :
    s.status.state = Code.pllCfg ∧ s.cr.pllon = true := by
  obtain ⟨-, at_pllCfg, running⟩ := applyMove_eq_fault h
  obtain ⟨ms, n, drawn⟩ := draw_state s
  rw [drawn] at at_pllCfg running
  exact ⟨at_pllCfg, running⟩

/-- Settles O49: in a run the PLL is off until `PLL_EN` has run, which is after `PLL_CFG`. -/
theorem noStepOfARunFaults : Obligations.NoStepOfARunFaults := by
  intro s r inv h
  obtain ⟨at_pllCfg, running⟩ := step_eq_fault h
  have off : s.cr.pllon = false := inv.pll_off (by simp [stage, at_pllCfg])
  rw [off] at running
  cases running

end Machine

end Sys2Proof
end

section
/-! PROOFS of the family 42_flash_prescaler_switch: the micro-operations of steps 3 to 5 (rules R130 to R135), and that the mux is
switched only after its preparation (rules R131, R207). -/

namespace Sys2Proof.Machine

/-! ## The switch follows its preparation (rules R131, R207) -/

/-- In a run another source than the internal oscillator is requested, or active, only after `SW_SET` (rule R213.5, R213.6; of
`SWS` by rule R164, log 17). -/
theorem RunInv.afterSwSet_of_switch {cfg : Config.Params} {s : State} (inv : RunInv cfg s)
    (h : s.cfgr.sw ≠ 0b00#2 ∨ s.cfgr.sws ≠ 0b00#2) : afterSwSet s := by
  rcases h with requested | active
  · by_contra before
    exact requested (inv.sw_before before)
  · exact (inv.switched active).1

/-- `SW_SET` comes after `FLASH_WS` (rule R24). -/
theorem not_beforeFlash_of_afterSwSet {s : State} (h : afterSwSet s) : ¬ beforeFlash s := by
  rintro (early | ⟨failed, other⟩) <;> obtain ⟨from9, to12⟩ | ⟨failed', switch⟩ := h
  · omega
  · omega
  · omega
  · exact other switch

/-- In dividers-first order the prescalers are written before `SW_SET`: code 10, `PRESC_POST`, is not of this order (rule R131). -/
theorem RunInv.prescalersWritten_of_raising {cfg : Config.Params} {s : State} (inv : RunInv cfg s) (after : afterSwSet s)
    (raising : raiseFirst s = true) : prescalersWritten s := by
  have not_post : stage s ≠ 10 := by
    intro at_post
    simp [inv.post_lowering at_post] at raising
  obtain ⟨from9, to12⟩ | failed := after
  · by_cases waiting : stage s = 9
    · exact .inr (.inr ⟨raising, .inl (by omega)⟩)
    · have : stage s = 11 ∨ stage s = 12 := by omega
      exact this.imp_right .inl
  · exact .inr (.inr ⟨raising, .inr failed⟩)

/-- In switch-first order they are not written before the switch is confirmed: not in `SW_WAIT`, nor after its timeout. -/
theorem not_prescalersWritten_of_lowering {s : State} (unconfirmed : stage s ≤ 9 ∨ stage s = 13)
    (lowering : raiseFirst s = false) : ¬ prescalersWritten s := by
  rintro (at_emit | at_done | ⟨raising, -⟩)
  · omega
  · omega
  · simp [lowering] at raising

/-- Settles O52: after `SW_SET` the wait states stand; the prescalers stand in dividers-first order, and in switch-first order the
switch is confirmed, or they are still the reset ones. -/
theorem theSwitchFollowsItsPreparation : Obligations.TheSwitchFollowsItsPreparation := by
  intro cfg s inv h
  have after := inv.afterSwSet_of_switch h
  refine ⟨inv.latency_after (not_beforeFlash_of_afterSwSet after), fun raising => ?raising, fun lowering => ?lowering⟩
  case raising => exact inv.prescalers_after (inv.prescalersWritten_of_raising after raising)
  case lowering =>
    by_cases confirmed : 10 ≤ stage s ∧ stage s ≤ 12
    · exact .inl (inv.confirmed confirmed.1 confirmed.2)
    · have unconfirmed : stage s ≤ 9 ∨ stage s = 13 := by
        have := inv.no_reserved
        omega
      exact .inr (inv.prescalers_before (not_prescalersWritten_of_lowering unconfirmed lowering))

/-! ## The order of steps 4 and 5 (rules R85, R131) -/

/-- `raise_first(P)` in the words of rule R85, equality counted as raising. -/
theorem raiseFirst_iff (s : State) : raiseFirst s = true ↔ s.plan.f.sysclk.toNat ≥ s.curSysclk.toNat := decide_eq_true_iff

/-- Settles O15: the meaning of `FLASH_WS`, its successor chosen by `raise_first`. -/
theorem flashWsProgramsTheWaitStates : Obligations.FlashWsProgramsTheWaitStates := by
  intro s
  simp only [← raiseFirst_iff]
  rfl

/-! ## The prescalers (rules R132, R135) -/

/-- The hardwired `USBPRE` in the words of rule R27. -/
theorem wireUsbpre_eq (cfg : Config.Params) (b : Bool) :
    wireUsbpre cfg b = if cfg.hasUsbpre = true then b else false := by
  cases h : cfg.hasUsbpre <;> simp [wireUsbpre, h]

/-- Settles O16: both are `writePrescalers`, each with its own successor. -/
theorem prescalersAreWrittenTogether : Obligations.PrescalersAreWrittenTogether := by
  intro s
  simp only [← wireUsbpre_eq]
  exact ⟨rfl, rfl⟩

/-! ## The switch and its confirmation (rules R133, R134) -/

/-- Settles O17: the meaning of `SW_SET` is this update. -/
theorem swSetRequestsTheSwitch : Obligations.SwSetRequestsTheSwitch := fun _ => rfl

/-- Settles O18: a poll of `SWS = P.SRC` whose next step is chosen by `raise_first`. -/
theorem swWaitPollsTheMuxStatus : Obligations.SwWaitPollsTheMuxStatus := by
  intro s
  simp only [← raiseFirst_iff, ← beq_iff_eq (a := s.cfgr.sws)]
  exact congrArg Host.Outcome.next (poll_eq (s.cfgr.sws == s.plan.src) Config.params.nSw _ .clockSwitch s)

end Sys2Proof.Machine
end

section
/-! PROOFS of the family 43_emit_terminal: the record and the terminal states (rules R150 to R154, R179), the bound on the steps of
a commit (rule R155), and that the record tells the clocks (rules R14, R206, R211). -/

namespace Sys2Proof.Machine

/-! ## Step 6, the terminal states and the reserved codes (rules R150 to R153) -/

/-- Settles O19: the meaning of `EMIT` is this update. -/
theorem emitCreatesTheRecord : Obligations.EmitCreatesTheRecord := fun _ => rfl

/-- Settles O20: the meanings of the four codes. -/
theorem terminalAndReservedCodes : Obligations.TerminalAndReservedCodes := fun _ => ⟨rfl, rfl, rfl, rfl⟩

theorem terminal_iff (s : State) : terminal s = true ↔ s.status.state = 12#4 ∨ s.status.state = 13#4 := by
  simp [terminal]

/-- A terminal state has left `IDLE`. -/
theorem committed_of_terminal {s : State} (h : terminal s = true) : committed s = true := by
  rcases (terminal_iff s).mp h with hs | hs <;> simp [committed, hs]

/-! ## The moves of the other agents (rules R100, R101, R163) -/

/-- A host command writes nothing of a committed state but the host's own fields. -/
theorem host_exec_of_committed {i : Instr} {s t : State} (hf : formatOf i ≠ .uop) (hc : committed s = true)
    (h : exec i s = .next t) : ∃ w q, t = { s with hostRdata := w, hostProgram := q } := by
  obtain ⟨p, b, w, q, rfl, locked, -⟩ := host_exec_cases hf h
  obtain ⟨rfl, rfl⟩ := locked (by simp [unlocked_eq_not_committed, hc])
  exact ⟨w, q, rfl⟩

/-- In a committed state the host and the clock tree write `CR`, `CFGR` and the host's own fields only. -/
theorem move_of_committed {m : Move} {s t : State} (not_reset : m ≠ .reset) (not_seq : m ≠ .seq) (hc : committed s = true)
    (h : applyMove m s = .next t) : ∃ a b w q, t = { s with cr := a, cfgr := b, hostRdata := w, hostProgram := q } := by
  obtain ⟨rfl, -⟩ | ⟨tr, i, -, hd, h⟩ | ⟨p, -, h⟩ | ⟨-, rfl⟩ | ⟨e, -, rfl⟩ | ⟨rfl, -⟩ := applyMove_cases h
  · exact absurd rfl not_seq
  · obtain ⟨w, q, rfl⟩ := host_exec_of_committed (by simp [decodeHost_format hd]) hc h
    exact ⟨s.cr, s.cfgr, w, q, rfl⟩
  · obtain ⟨w, q, rfl⟩ := host_exec_of_committed (by simp [formatOf]) hc h
    exact ⟨s.cr, s.cfgr, w, q, rfl⟩
  · obtain ⟨p, b, e, locked, -⟩ := hostNext_cases Config.params s
    obtain ⟨rfl, rfl⟩ := locked (by simp [unlocked_eq_not_committed, hc])
    exact ⟨s.cr, s.cfgr, s.hostRdata, _, e⟩
  · obtain ⟨a, b, he⟩ := envStep_update e s
    exact ⟨a, b, s.hostRdata, s.hostProgram, he⟩
  · exact absurd rfl not_reset

/-! ## The terminal states are absorbing (rules R151, R152, R179) -/

/-- The sequencer's own step changes nothing there. -/
theorem applyMove_seq_of_terminal {s : State} (h : terminal s = true) : applyMove .seq s = .next s := by
  rcases (terminal_iff s).mp h with hs | hs <;> rw [applyMove, hs] <;> rfl

/-- Settles O36: the sequencer changes nothing there, and the other agents write none of these registers. -/
theorem terminalStatesAreAbsorbing : Obligations.TerminalStatesAreAbsorbing := by
  intro m s t not_reset hs h
  have ended := (terminal_iff s).mpr hs
  by_cases hm : m = .seq
  · subst hm
    rw [applyMove_seq_of_terminal ended] at h
    obtain rfl := Host.Outcome.next.inj h
    exact ⟨rfl, rfl, rfl, rfl, rfl, rfl, fun _ => rfl⟩
  · obtain ⟨a, b, w, q, rfl⟩ := move_of_committed not_reset hm (committed_of_terminal ended) h
    exact ⟨rfl, rfl, rfl, rfl, rfl, rfl, fun seq => absurd seq hm⟩

/-! ## The bound on the steps left (rule R155) -/

/-- It is 0 exactly at the end. -/
theorem stepsLeft_eq_zero_iff (cfg : Config.Params) (s : State) : stepsLeft cfg s = 0 ↔ terminal s = true := by
  rw [terminal_iff]
  rcases state_cases s.status.state with hs | hs | hs | hs | hs | hs | hs | hs | hs | hs | hs | hs | hs | hs | hs | hs <;>
    simp [stepsLeft, stage, stepBound, hs]

/-! The order of steps 4 and 5 is told by the plan and `CUR_SYSCLK` (rule R85), which these updates leave. -/

@[simp] theorem raiseFirst_goto (c : BitVec 4) (s : State) : raiseFirst (goto c s) = raiseFirst s := rfl
@[simp] theorem raiseFirst_writePrescalers (cfg : Config.Params) (s : State) :
    raiseFirst (writePrescalers cfg s) = raiseFirst s := rfl
@[simp] theorem raiseFirst_with_acr (a : Acr) (s : State) : raiseFirst { s with acr := a } = raiseFirst s := rfl
@[simp] theorem raiseFirst_with_cnt (n : Word) (s : State) : raiseFirst { s with cnt := n } = raiseFirst s := rfl
@[simp] theorem raiseFirst_with_cfgr_cnt (c : Cfgr) (n : Word) (s : State) :
    raiseFirst { s with cfgr := c, cnt := n } = raiseFirst s := rfl

/-- A poll lowers the bound of its wait: it counts one of the polls left, or goes on to a state that needs no more than the `k`
steps that follow the wait, or fails (rules R112, R115, R134). -/
theorem stepsLeft_poll_lt {cfg : Config.Params} {s : State} {bound k : Nat} {c : BitVec 4} (ready : Bool) (e : TimeoutError)
    (small : bound < 2 ^ 32)
    (waiting : ∀ n, stepsLeft cfg { s with cnt := n } = max 1 (bound - n.toNat) + k)
    (next : stepsLeft cfg (goto c s) ≤ k) :
    stepsLeft cfg (poll ready bound c e s) < stepsLeft cfg s := by
  have now : stepsLeft cfg s = max 1 (bound - s.cnt.toNat) + k := waiting s.cnt
  obtain ⟨-, h⟩ | ⟨-, -, h⟩ | ⟨-, below, h⟩ := poll_cases ready bound c e s <;> rw [h, now]
  · omega
  · have failed : stepsLeft cfg (raiseError e s) = 0 := (stepsLeft_eq_zero_iff ..).mpr ((terminal_iff _).mpr (.inr rfl))
    omega
  · rw [waiting, cnt_succ_toNat small below]
    omega

/-- In a committed state that has not ended the sequencer's step lowers the bound: a wait by its poll, every other row of rule R24
by its successor's place on the longest path. -/
theorem stepsLeft_seq_lt {s t : State} (hc : committed s = true) (running : terminal s = false)
    (h : exec (decodeUop s.status.state) s = .next t) : stepsLeft Config.params t < stepsLeft Config.params s := by
  have osc := Config.params.nOsc_range
  have pll := Config.params.nPll_range
  have sw := Config.params.nSw_range
  rcases state_cases s.status.state with hs | hs | hs | hs | hs | hs | hs | hs | hs | hs | hs | hs | hs | hs | hs | hs <;>
    rw [hs] at h
  · -- `IDLE`
    have pending : s.status.startPend = true := by simpa [committed, hs] using hc
    obtain rfl := Host.Outcome.next.inj ((exec_idle_of_pending pending).symm.trans h)
    split_ifs <;> simp [stepsLeft, stage, hs, stepBound] <;> omega
  · -- `HSE_EN`
    obtain rfl := Host.Outcome.next.inj h
    simp [stepsLeft, stage, hs]
    omega
  · -- `HSE_WAIT`
    obtain rfl := Host.Outcome.next.inj h
    refine stepsLeft_poll_lt (k := 6 + Config.params.nPll + Config.params.nSw) _ _ osc.2 (fun n => ?waiting) ?next
    case waiting =>
      simp [stepsLeft, stage, hs]
      omega
    case next => split_ifs <;> simp [stepsLeft, stage] <;> omega
  · -- `PLL_CFG`
    obtain ⟨-, rfl⟩ := exec_pllCfg_eq_next h
    simp [stepsLeft, stage, hs]
  · -- `PLL_EN`
    obtain rfl := Host.Outcome.next.inj h
    simp [stepsLeft, stage, hs]
    omega
  · -- `PLL_WAIT`
    obtain rfl := Host.Outcome.next.inj h
    refine stepsLeft_poll_lt (k := 4 + Config.params.nSw) _ _ pll.2 (fun n => ?waiting) ?next
    case waiting =>
      simp [stepsLeft, stage, hs]
      omega
    case next => simp [stepsLeft, stage]
  · -- `FLASH_WS`
    obtain rfl := Host.Outcome.next.inj h
    cases hr : raiseFirst s <;> simp [stepsLeft, stage, hs, hr] <;> omega
  · -- `PRESC_PRE`
    obtain rfl := Host.Outcome.next.inj h
    cases hr : raiseFirst s <;> simp [stepsLeft, stage, hs, hr]
  · -- `SW_SET`
    obtain rfl := Host.Outcome.next.inj h
    cases hr : raiseFirst s <;> simp [stepsLeft, stage, hs, hr] <;> omega
  · -- `SW_WAIT`
    obtain rfl := Host.Outcome.next.inj h
    refine stepsLeft_poll_lt (k := if raiseFirst s then 1 else 2) _ _ sw.2 (fun n => ?waiting) ?next
    case waiting => cases hr : raiseFirst s <;> simp [stepsLeft, stage, hs, hr]
    case next => cases raiseFirst s <;> simp [stepsLeft, stage]
  · -- `PRESC_POST`
    obtain rfl := Host.Outcome.next.inj h
    simp [stepsLeft, stage, hs]
  · -- `EMIT`
    obtain rfl := Host.Outcome.next.inj h
    simp [stepsLeft, stage, hs]
  · -- `DONE`
    simp [terminal, hs] at running
  · -- `FAILED`
    simp [terminal, hs] at running
  · -- `RSVD14`
    obtain rfl := Host.Outcome.next.inj h
    simp [stepsLeft, stage, hs]
  · -- `RSVD15`
    obtain rfl := Host.Outcome.next.inj h
    simp [stepsLeft, stage, hs]

/-- Settles O56: the sequencer's step is `stepsLeft_seq_lt`; the other agents write nothing that the bound reads. -/
theorem sequencerStepsBringTheEndNearer : Obligations.SequencerStepsBringTheEndNearer := by
  intro m s t not_reset hc running h
  refine ⟨fun seq => ?sequencer, fun not_seq => ?others⟩
  case sequencer =>
    subst seq
    exact stepsLeft_seq_lt hc running h
  case others =>
    obtain ⟨a, b, w, q, rfl⟩ := move_of_committed not_reset not_seq hc h
    rfl

/-! ## Every commit ends within the bound (rule R155) -/

/-- A run that begins with a move makes it and goes on from there. -/
theorem runMoves_cons_eq_next {m : Move} {ms : List Move} {s t : State} (h : runMoves (m :: ms) s = .next t) :
    ∃ u, applyMove m s = .next u ∧ runMoves ms u = .next t := by
  rw [runMoves] at h
  split at h
  case h_1 u hu => exact ⟨u, hu, h⟩
  all_goals cases h

theorem seqCount_cons (m : Move) (ms : List Move) :
    seqCount (m :: ms) = seqCount ms + if m = .seq then 1 else 0 := by
  by_cases hm : m = .seq <;> simp [seqCount, hm]

/-- A move of a committed state takes one sequencer step off the bound, if it is one; at the end none are left to take. -/
theorem stepsLeft_applyMove_le {m : Move} {s t : State} (not_reset : m ≠ .reset) (hc : committed s = true)
    (h : applyMove m s = .next t) :
    stepsLeft Config.params t ≤ stepsLeft Config.params s - if m = .seq then 1 else 0 := by
  cases ended : terminal s with
  | true =>
    obtain ⟨status, -⟩ := terminalStatesAreAbsorbing m s t not_reset ((terminal_iff s).mp ended) h
    have still : terminal t = true := by rwa [terminal, status]
    simp [(stepsLeft_eq_zero_iff _ t).mpr still]
  | false =>
    obtain ⟨lowers, keeps⟩ := sequencerStepsBringTheEndNearer m s t not_reset hc ended h
    split_ifs with seq
    · have := lowers seq
      omega
    · exact (keeps seq).le

/-- A run from a committed state that holds as many sequencer steps as the bound has ended. -/
theorem terminal_of_stepsLeft_le {ms : List Move} {s t : State} (hc : committed s = true) (no_reset : Move.reset ∉ ms)
    (h : runMoves ms s = .next t) (enough : stepsLeft Config.params s ≤ seqCount ms) : terminal t = true := by
  induction ms generalizing s with
  | nil =>
    obtain rfl := Host.Outcome.next.inj h
    exact (stepsLeft_eq_zero_iff ..).mp (Nat.le_zero.mp enough)
  | cons m ms ih =>
    obtain ⟨not_reset, no_reset⟩ := List.ne_and_not_mem_of_not_mem_cons no_reset
    obtain ⟨u, hu, rest⟩ := runMoves_cons_eq_next h
    have locked := thePlanIsLockedOnceCommitted m s u (Ne.symm not_reset) hc hu
    have nearer := stepsLeft_applyMove_le (Ne.symm not_reset) hc hu
    rw [seqCount_cons] at enough
    exact ih locked.2 no_reset rest (by omega)

/-- Settles O57: an accepted start is a committed state whose bound is `B`. -/
theorem everyCommitEndsWithinTheBound : Obligations.EveryCommitEndsWithinTheBound := by
  intro ms s t idle pending no_reset h enough
  have hc : committed s = true := by simp [committed, pending]
  have bound : stepsLeft Config.params s = stepBound Config.params := by simp [stepsLeft, stage, idle]
  exact (terminal_iff t).mp (terminal_of_stepsLeft_le hc no_reset h (bound.trans_le enough))

/-! ## The end of a run (rules R134, R150, R152, R154; of `SWS` by rule R164, log 17) -/

section
variable {cfg : Config.Params} {s : State}

theorem stage_of_done (h : s.status.state = Code.done) : stage s = 12 := by simp [stage, h]

/-- In `DONE` the plan's source is the active one. -/
theorem RunInv.sws_of_done (inv : RunInv cfg s) (h : s.status.state = Code.done) : s.cfgr.sws = s.plan.src :=
  inv.confirmed (by simp [stage_of_done h]) (by simp [stage_of_done h])

/-- There the prescalers are the plan's. -/
theorem RunInv.prescalers_of_done (inv : RunInv cfg s) (h : s.status.state = Code.done) : PrescalersPlan s :=
  inv.prescalers_after (.inr (.inl (stage_of_done h)))

/-- There no error is recorded. -/
theorem RunInv.err_of_done (inv : RunInv cfg s) (h : s.status.state = Code.done) : s.status.err = 0#2 := by
  by_contra failed
  simp [inv.err_iff_failed.mp failed] at h

end

/-- The errors of the block (rule R170). -/
theorem err_cases {e : BitVec 2} (h : e ≠ 0#2) : e = 1#2 ∨ e = 2#2 ∨ e = 3#2 := by
  revert e; decide

/-- Settles O53: in `DONE` every stage has written what it writes; in `FAILED` an error is recorded and no record exists. -/
theorem theEndOfARun : Obligations.TheEndOfARun := by
  intro cfg s inv
  refine ⟨fun done => ?done, fun failed => ?failed⟩
  case done =>
    have switched : afterSwSet s := .inl (by simp [stage_of_done done])
    obtain ⟨fc, valid, -⟩ := inv.record_after done
    exact ⟨inv.err_of_done done, valid, fc, inv.sw_after switched, inv.sws_of_done done,
      inv.latency_after (not_beforeFlash_of_afterSwSet switched), inv.prescalers_of_done done⟩
  case failed =>
    obtain ⟨fc, invalid, -⟩ := inv.record_before (by simp [failed])
    exact ⟨err_cases (inv.err_iff_failed.mpr failed), invalid, fc⟩

/-! ## The record tells the clocks (rules R14, R206, R211) -/

/-- A checked quotient is the rational one (rule R13). -/
theorem div_eq_of_checkedDiv {f d r : Nat} (hd : 0 < d) (h : checkedDiv f d = .ok r) : (f : ℚ) / d = r := by
  obtain rfl := (checkedDiv_eq_ok hd).mp h
  rw [Nat.cast_mul, mul_div_cancel_right₀ _ (by positivity)]

/-- So is the checked quotient by a ratio. -/
theorem div_ratio_eq_of_checkedDivRatio {f n m r : Nat} (hn : 0 < n) (h : checkedDivRatio f n m = .ok r) :
    (f : ℚ) / ((n : ℚ) / m) = r := by
  obtain ⟨product, -⟩ := (checkedDivRatio_eq_ok hn).mp h
  rw [div_div_eq_mul_div, div_eq_iff (by positivity)]
  exact_mod_cast product.symm

theorem usbdivNum_pos (c : Bool) : 0 < usbdivNum c := by revert c; decide

/-- The PLL output of a plan is its root's frequency divided and multiplied, without rounding (rule R14, clause 2). -/
theorem pll_eq_of_planPllFreq {cfg : Config.Params} {p : Plan} {r : Nat} (h : planPllFreq cfg p = .ok r) :
    (rootFreq cfg p : ℚ) / plldiv p.plldiv * pllmul p.pllmul = r := by
  unfold planPllFreq at h
  cases hg : checkedDiv (rootFreq cfg p) (plldiv p.plldiv) with
  | error e =>
    rw [hg] at h
    cases h
  | ok g =>
    rw [hg] at h
    obtain ⟨rfl, -⟩ := checkedMul_eq_ok.mp h
    rw [div_eq_of_checkedDiv (plldiv_pos _) hg, Nat.cast_mul]

/-- A plan that selects neither the PLL nor the reserved source selects one of the oscillators (rule R33). -/
theorem src_cases_of_direct {p : Plan} (not_reserved : p.src ≠ 0b11#2) (direct : p.pllSelected = false) :
    p.src = 0b00#2 ∨ p.src = 0b01#2 := by
  have codes : ∀ c : BitVec 2, c ≠ 0b11#2 → c ≠ 0b10#2 → c = 0b00#2 ∨ c = 0b01#2 := by decide
  exact codes _ not_reserved (beq_eq_false_iff_ne.mp direct)

section
variable {cfg : Config.Params} {s : State}

/-- With the plan's parameters in `CFGR`, and the PLL selected, the observed PLL output is the plan's (rules R14, R211). -/
theorem fPll_eq_of_params (wf : planWf cfg s.plan = true) (valid : ValidPlan cfg s.plan) (params : PllParamsPlan s)
    (selected : s.plan.pllSelected = true) : fPll cfg s = (s.plan.f.pll.toNat : ℚ) := by
  obtain ⟨pllsrc, pllxtpre, mul⟩ := params
  obtain ⟨-, wired, -⟩ := planWf_fields wf
  obtain ⟨output, -⟩ := valid.pll selected
  have input : fPllin cfg s = (rootFreq cfg s.plan : ℚ) := by
    have src : s.plan.src = 0b10#2 := beq_iff_eq.mp selected
    cases hp : s.plan.pllin <;> simp [fPllin, rootFreq, Plan.extSelected, pllsrc, src, hp]
  rw [fPll, input, pllxtpre, wired, mul, pll_eq_of_planPllFreq output]

/-- In `DONE` a selected PLL runs, with the plan's parameters (rules R113, R115). -/
theorem RunInv.pllParams_of_done (inv : RunInv cfg s) (done : s.status.state = Code.done)
    (selected : s.plan.pllSelected = true) : PllParamsPlan s := by
  have late : ¬ stage s ≤ 5 := by simp [stage_of_done done]
  have no_error (e : TimeoutError) : s.status.err ≠ errCode e := by
    rw [inv.err_of_done done]
    cases e <;> decide
  exact inv.pllon_params (inv.pllrdy_pllon (inv.pll_ready late (no_error _) (no_error _) selected))

/-- With the plan's source active, and its parameters in `CFGR` where that is the PLL, the observed SYSCLK is the plan's. -/
theorem sysclk_eq_of_source (wf : planWf cfg s.plan = true) (valid : ValidPlan cfg s.plan) (active : s.cfgr.sws = s.plan.src)
    (params : s.plan.pllSelected = true → PllParamsPlan s) : sysclk cfg s = (s.plan.f.sysclk.toNat : ℚ) := by
  rw [sysclk, active]
  cases selected : s.plan.pllSelected with
  | true =>
    obtain ⟨-, -, -, same⟩ := valid.pll selected
    have src : s.plan.src = 0b10#2 := beq_iff_eq.mp selected
    rw [same, ← fPll_eq_of_params wf valid (params selected) selected, src]
    rfl
  | false =>
    obtain ⟨root, -⟩ := valid.direct selected
    obtain ⟨not_reserved, -, -⟩ := planWf_fields wf
    rw [root, rootFreq, extSelected_of_direct selected]
    rcases src_cases_of_direct not_reserved selected with src | src <;> rw [src] <;> rfl

end

/-- Settles O60: in `DONE` the plan's source and fields are in place, and each clock is a checked product or quotient of the plan. -/
theorem theRecordTellsTheClocks : Obligations.TheRecordTellsTheClocks := by
  intro cfg s inv done valid
  have wf : planWf cfg s.plan = true := inv.plan_wf (by simp [committed, done])
  have params := inv.pllParams_of_done done
  obtain ⟨fc, -, fcPllValid, fcUsbValid⟩ := inv.record_after done
  obtain ⟨hpre, ppre1, ppre2, usbpre⟩ := inv.prescalers_of_done done
  have hsys : sysclk cfg s = (s.plan.f.sysclk.toNat : ℚ) := sysclk_eq_of_source wf valid (inv.sws_of_done done) params
  have hahb : ahb cfg s = (s.plan.f.ahb.toNat : ℚ) := by
    rw [ahb, hsys, hpre, div_eq_of_checkedDiv (hdiv_pos _) valid.ahb.1]
  rw [fc, fcPllValid, fcUsbValid]
  refine ⟨hsys, hahb, ?apb1, ?apb2, fun selected => ?pll, fun usb_on => ?usb⟩
  case apb1 => rw [apb1, hahb, ppre1, div_eq_of_checkedDiv (pdiv_pos _) valid.apb1.1]
  case apb2 => rw [apb2, hahb, ppre2, div_eq_of_checkedDiv (pdiv_pos _) valid.apb2.1]
  case pll => exact fPll_eq_of_params wf valid (params selected) selected
  case usb =>
    obtain ⟨-, -, wired⟩ := planWf_fields wf
    obtain ⟨-, quotient, -⟩ := valid.usb_on usb_on
    rw [usb, hsys, usbpre, wired, div_ratio_eq_of_checkedDivRatio (usbdivNum_pos _) quotient]

end Sys2Proof.Machine
end

section
/-! PROOFS of the family 44_environment: the transitions of the clock tree (rules R160 to R163), and the two canonical schedules of
rule R166. For each schedule one predicate says where a commit stands on its way, state by state; each move of the schedule
answers a state further on that way. -/

namespace Sys2Proof.Machine

/-! ## The transitions (rules R160 to R163) -/

/-- An enabled transition has its effect. -/
theorem applyMove_env_of_enabled {e : EnvEvent} {s : State} (h : envEnabled e s = true) :
    applyMove (.env e) s = .next (envEffect e s) :=
  congrArg Host.Outcome.next (if_pos h)

/-- One that is not enabled changes nothing (log 2). -/
theorem applyMove_env_of_disabled {e : EnvEvent} {s : State} (h : envEnabled e s = false) :
    applyMove (.env e) s = .next s :=
  congrArg Host.Outcome.next (if_neg (by simp [h]))

theorem envEnabled_hseRdy (s : State) : envEnabled .hseRdy s = true ↔ s.cr.hseon = true ∧ s.cr.hserdy = false := by
  simp [envEnabled]

theorem envEnabled_pllRdy (s : State) : envEnabled .pllRdy s = true ↔ s.cr.pllon = true ∧ s.cr.pllrdy = false := by
  simp [envEnabled]

theorem envEnabled_switch (s : State) : envEnabled .switch s = true ↔ s.cfgr.sws ≠ s.cfgr.sw := bne_iff_ne

/-- Settles O39: each premise is that the transition is enabled. -/
theorem environmentTransitionsSetOneInput : Obligations.EnvironmentTransitionsSetOneInput := fun s =>
  ⟨fun on unready => applyMove_env_of_enabled ((envEnabled_hseRdy s).mpr ⟨on, unready⟩),
    fun on unlocked => applyMove_env_of_enabled ((envEnabled_pllRdy s).mpr ⟨on, unlocked⟩),
    fun requested => applyMove_env_of_enabled ((envEnabled_switch s).mpr requested)⟩

/-- Settles O40: each premise is that the transition is not enabled. -/
theorem aTransitionDrawnWhileDisabledChangesNothing : Obligations.ATransitionDrawnWhileDisabledChangesNothing := by
  intro s
  refine ⟨fun h => ?hse, fun h => ?pll, fun h => ?switch⟩ <;> apply applyMove_env_of_disabled
  case hse => rcases h with h | h <;> simp [envEnabled, h]
  case pll => rcases h with h | h <;> simp [envEnabled, h]
  case switch => simp [envEnabled, h]

/-! ## A start pending in a run (rules R40, R110, R213) -/

section
variable {cfg : Config.Params} {s : State}

theorem RunInv.stage_of_pending (inv : RunInv cfg s) (pending : s.status.startPend = true) : stage s = 0 := by
  simp [stage, inv.pend_idle pending]

/-- The PLL has not been enabled. -/
theorem RunInv.pllon_of_pending (inv : RunInv cfg s) (pending : s.status.startPend = true) : s.cr.pllon = false :=
  inv.pll_off (by simp [inv.stage_of_pending pending])

/-- No input of the clock tree has moved: the oscillator and the PLL are off, and the switch has not been requested. -/
theorem RunInv.inputs_of_pending (inv : RunInv cfg s) (pending : s.status.startPend = true) :
    s.cr.hserdy = false ∧ s.cr.pllrdy = false ∧ s.cfgr.sws = 0b00#2 := by
  have idle := inv.stage_of_pending pending
  refine ⟨?hse, ?pll, ?sws⟩
  case hse =>
    by_contra ready
    obtain ⟨-, -, late⟩ := inv.hseon_iff.mp (inv.hserdy_hseon (by simpa using ready))
    omega
  case pll =>
    by_contra locked
    have on := inv.pllrdy_pllon (by simpa using locked)
    simp [inv.pllon_of_pending pending] at on
  case sws =>
    by_contra switched
    obtain ⟨⟨late, -⟩ | ⟨failed, -⟩, -⟩ := inv.switched switched <;> omega

end

/-! ## The eager schedule (rule R166) -/

/-- A poll of a flag that is set goes on (rules R112, R115, R134). -/
theorem poll_of_ready {ready : Bool} (h : ready = true) (bound : Nat) (c : BitVec 4) (e : TimeoutError) (s : State) :
    poll ready bound c e s = goto c s := if_pos h

/-- The eager schedule takes an enabled transition, and a sequencer step where there is none. -/
theorem eagerMove_cases (s : State) :
    (∃ e, envEnabled e s = true ∧ eagerMove s = .env e) ∨ ((∀ e, envEnabled e s = false) ∧ eagerMove s = .seq) := by
  unfold eagerMove
  split_ifs with hse pll switch
  · exact .inl ⟨.hseRdy, hse, rfl⟩
  · exact .inl ⟨.pllRdy, pll, rfl⟩
  · exact .inl ⟨.switch, switch, rfl⟩
  · refine .inr ⟨fun e => ?_, rfl⟩
    cases e <;> simp only [hse, pll, switch]

/-- Where a commit of the plan `p` stands under the eager schedule: no poll has failed, the flag a wait polls has its enable, the PLL
is off until `PLL_EN`, and from `SW_SET` on the mux is asked for the plan's source. -/
def EagerCourse (p : Plan) (s : State) : Prop :=
  s.plan = p ∧ s.cnt = 0#32 ∧
    match stage s with
    | 0 => s.status.startPend = true ∧ s.cr.pllon = false
    | 1 | 3 => s.cr.pllon = false
    | 2 => s.cr.hseon = true ∧ s.cr.pllon = false
    | 5 => s.cr.pllon = true
    | 4 | 6 | 7 | 8 => True
    | 9 | 10 | 11 => s.cfgr.sw = p.src
    | 12 => s.cfgr.sw = p.src ∧ s.fc = p.f
    | _ => False

/-- An accepted start of a run is the beginning of it. -/
theorem RunInv.eagerCourse {s : State} (inv : RunInv Config.params s) (pending : s.status.startPend = true) :
    EagerCourse s.plan s := by
  have idle := inv.stage_of_pending pending
  refine ⟨rfl, inv.cnt_reset (by omega), ?_⟩
  rw [idle]
  exact ⟨pending, inv.pllon_of_pending pending⟩

theorem committed_of_eagerCourse {p : Plan} {s : State} (h : EagerCourse p s) : committed s = true := by
  by_cases idle : s.status.state = Code.idle
  · obtain ⟨-, -, here⟩ := h
    rw [stage, idle] at here
    obtain ⟨pending, -⟩ := here
    simp [committed, pending]
  · simpa [committed] using .inr idle

/-- A transition of the clock tree keeps it: the course speaks of no input. -/
theorem EagerCourse.env {p : Plan} {s : State} (h : EagerCourse p s) (e : EnvEvent) :
    EagerCourse p (envEffect e s) := by
  cases e <;> exact h

/-- With no transition enabled the sequencer's step goes on: in a wait, the flag it polls is set. -/
theorem EagerCourse.seq {p : Plan} {s : State} (h : EagerCourse p s) (quiet : ∀ e, envEnabled e s = false) :
    ∃ t, applyMove .seq s = .next t ∧ EagerCourse p t := by
  obtain ⟨rfl, cnt, here⟩ := h
  rcases state_cases s.status.state with hs | hs | hs | hs | hs | hs | hs | hs | hs | hs | hs | hs | hs | hs | hs | hs <;>
    rw [stage, hs] at here <;> rw [applyMove, hs]
  · -- `IDLE`
    obtain ⟨pending, off⟩ := here
    refine ⟨_, exec_idle_of_pending pending, rfl, cnt, ?_⟩
    cases s.plan.extSelected with
    | true => exact off
    | false => cases s.plan.pllSelected <;> [trivial; exact off]
  · -- `HSE_EN`
    exact ⟨_, rfl, rfl, rfl, rfl, here⟩
  · -- `HSE_WAIT`
    obtain ⟨on, off⟩ := here
    have ready : s.cr.hserdy = true := by simpa [envEnabled, on] using quiet .hseRdy
    refine ⟨_, congrArg Host.Outcome.next (poll_of_ready ready ..), rfl, cnt, ?_⟩
    cases s.plan.pllSelected <;> [trivial; exact off]
  · -- `PLL_CFG`
    exact ⟨_, exec_pllCfg_of_off here, rfl, cnt, trivial⟩
  · -- `PLL_EN`
    exact ⟨_, rfl, rfl, rfl, rfl⟩
  · -- `PLL_WAIT`
    have locked : s.cr.pllrdy = true := by simpa [envEnabled, show s.cr.pllon = true from here] using quiet .pllRdy
    exact ⟨_, congrArg Host.Outcome.next (poll_of_ready locked ..), rfl, cnt, trivial⟩
  · -- `FLASH_WS`
    refine ⟨_, rfl, rfl, cnt, ?_⟩
    cases raiseFirst s <;> trivial
  · -- `PRESC_PRE`
    exact ⟨_, rfl, rfl, cnt, trivial⟩
  · -- `SW_SET`
    exact ⟨_, rfl, rfl, rfl, rfl⟩
  · -- `SW_WAIT`
    have switched : s.cfgr.sws = s.cfgr.sw := by simpa [envEnabled] using quiet .switch
    have confirmed : (s.cfgr.sws == s.plan.src) = true := beq_iff_eq.mpr (switched.trans here)
    refine ⟨_, congrArg Host.Outcome.next (poll_of_ready confirmed ..), rfl, cnt, ?_⟩
    cases raiseFirst s <;> exact here
  · -- `PRESC_POST`
    exact ⟨_, rfl, rfl, cnt, here⟩
  · -- `EMIT`
    exact ⟨_, rfl, rfl, cnt, here, rfl⟩
  · -- `DONE`
    exact ⟨s, rfl, rfl, cnt, by rw [stage, hs]; exact here⟩
  · -- `FAILED`
    exact here.elim
  · -- `RSVD14`
    exact here.elim
  · -- `RSVD15`
    exact here.elim

/-- Every move of the eager schedule keeps the course. -/
theorem EagerCourse.move {p : Plan} {s : State} (h : EagerCourse p s) :
    ∃ t, applyMove (eagerMove s) s = .next t ∧ EagerCourse p t := by
  obtain ⟨e, enabled, he⟩ | ⟨quiet, he⟩ := eagerMove_cases s <;> rw [he]
  · exact ⟨_, applyMove_env_of_enabled enabled, h.env e⟩
  · exact h.seq quiet

theorem eagerRun_succ {s t : State} (h : applyMove (eagerMove s) s = .next t) (n : Nat) :
    eagerRun (n + 1) s = eagerRun n t := by
  rw [eagerRun, h]

/-- So does the eager run. -/
theorem EagerCourse.run {p : Plan} {n : Nat} {s t : State} (h : EagerCourse p s) (run : eagerRun n s = .next t) :
    EagerCourse p t := by
  induction n generalizing s with
  | zero => exact Host.Outcome.next.inj run ▸ h
  | succ n ih =>
    obtain ⟨u, move, hu⟩ := h.move
    exact ih hu (eagerRun_succ move n ▸ run)

/-- How many transitions of the clock tree are enabled. -/
def enabledCount (s : State) : Nat := [EnvEvent.hseRdy, .pllRdy, .switch].countP (envEnabled · s)

theorem enabledCount_le (s : State) : enabledCount s ≤ 3 := List.countP_le_length

/-- A transition disables itself and leaves the others as they are. -/
theorem enabledCount_envEffect {e : EnvEvent} {s : State} (h : envEnabled e s = true) :
    enabledCount (envEffect e s) < enabledCount s := by
  cases e <;> simp_all [enabledCount, envEnabled, envEffect, List.countP_cons]

/-- The sequencer's bound reads no input of the clock tree (rule R155). -/
theorem stepsLeft_envEffect (cfg : Config.Params) (e : EnvEvent) (s : State) :
    stepsLeft cfg (envEffect e s) = stepsLeft cfg s := by
  cases e <;> rfl

/-- The eager run comes to an end at which nothing is enabled. Each move is a transition, of which at most three are enabled at a
time, or lowers the bound of rule R155. -/
theorem EagerCourse.ends {p : Plan} {s : State} (h : EagerCourse p s) :
    ∃ n t, eagerRun n s = .next t ∧ terminal t = true ∧ ∀ e, envEnabled e t = false := by
  obtain ⟨e, enabled, he⟩ | ⟨quiet, he⟩ := eagerMove_cases s
  · have fewer := enabledCount_envEffect enabled
    have same := stepsLeft_envEffect Config.params e s
    obtain ⟨n, t, run, ended⟩ := (h.env e).ends
    exact ⟨n + 1, t, (eagerRun_succ (he ▸ applyMove_env_of_enabled enabled) n).trans run, ended⟩
  · cases ended : terminal s with
    | true => exact ⟨0, s, rfl, ended, quiet⟩
    | false =>
      obtain ⟨u, move, hu⟩ := h.seq quiet
      have nearer := stepsLeft_seq_lt (committed_of_eagerCourse h) ended move
      have few := enabledCount_le u
      obtain ⟨n, t, run, ended⟩ := hu.ends
      exact ⟨n + 1, t, (eagerRun_succ (he ▸ move) n).trans run, ended⟩
termination_by 4 * stepsLeft Config.params s + enabledCount s

/-- The only end on this course is `DONE`, with the plan's record and the plan's source requested. -/
theorem EagerCourse.done {p : Plan} {s : State} (h : EagerCourse p s) (ended : terminal s = true) :
    s.status.state = Code.done ∧ s.cfgr.sw = p.src ∧ s.fc = p.f := by
  obtain ⟨-, -, here⟩ := h
  rcases (terminal_iff s).mp ended with hs | hs <;> rw [stage, hs] at here
  · exact ⟨hs, here⟩
  · exact here.elim

/-- Settles O58: the run stays on the eager course, on which no poll fails, and at its end no switch is outstanding. -/
theorem theEagerScheduleReachesDone : Obligations.TheEagerScheduleReachesDone := by
  intro s inv pending
  have course := inv.eagerCourse pending
  refine ⟨fun k u run => ?count, ?done⟩
  case count =>
    obtain ⟨-, cnt, -⟩ := course.run run
    exact cnt
  case done =>
    obtain ⟨n, t, run, ended, quiet⟩ := course.ends
    obtain ⟨done, sw, fc⟩ := (course.run run).done ended
    have switched : t.cfgr.sws = t.cfgr.sw := by simpa [envEnabled] using quiet .switch
    exact ⟨n, t, run, done, fc, switched.trans sw⟩

/-! ## The absent schedule (rules R165, R166) -/

/-- A poll of a flag that is not set raises the error or is counted (rules R112, R115, R134). -/
theorem poll_of_unready {ready : Bool} (h : ready = false) (bound : Nat) (c : BitVec 4) (e : TimeoutError) (s : State) :
    poll ready bound c e s = raiseError e s ∨ poll ready bound c e s = { s with cnt := s.cnt + 1#32 } := by
  obtain ⟨ready, -⟩ | ⟨-, -, raised⟩ | ⟨-, -, counted⟩ := poll_cases ready bound c e s
  · simp [h] at ready
  · exact .inl raised
  · exact .inr counted

/-- Where a commit of the plan `p` stands while the clock tree does not move: no input has left its reset value, the first wait the
plan needs is where the commit stays or fails, and the steps after it are run by a plan that needs no wait. -/
def AbsentCourse (p : Plan) (s : State) : Prop :=
  s.plan = p ∧ s.cr.hserdy = false ∧ s.cr.pllrdy = false ∧ s.cfgr.sws = 0b00#2 ∧
    match stage s with
    | 0 => s.status.startPend = true ∧ s.cr.pllon = false ∧ p.src ≠ 0b11#2
    | 1 | 2 => p.extSelected = true
    | 3 => p.extSelected = false ∧ p.pllSelected = true ∧ s.cr.pllon = false
    | 4 | 5 => p.extSelected = false ∧ p.pllSelected = true
    | 6 | 7 | 8 | 9 | 10 | 11 | 12 => p.src = 0b00#2
    | 13 => p.extSelected = true ∧ s.status.err = 1#2
        ∨ p.extSelected = false ∧ p.pllSelected = true ∧ s.status.err = 2#2
    | _ => False

/-- A plan that needs neither the external oscillator nor the PLL keeps the internal oscillator (rules R33, R85). -/
theorem src_eq_internal {p : Plan} (not_reserved : p.src ≠ 0b11#2) (no_ext : p.extSelected = false)
    (no_pll : p.pllSelected = false) : p.src = 0b00#2 := by
  rcases src_cases_of_direct not_reserved no_pll with src | src
  · exact src
  · rw [extSelected_of_direct no_pll, src] at no_ext
    cases no_ext

/-- An accepted start of a run is the beginning of it. -/
theorem RunInv.absentCourse {s : State} (inv : RunInv Config.params s) (pending : s.status.startPend = true) :
    AbsentCourse s.plan s := by
  obtain ⟨hserdy, pllrdy, sws⟩ := inv.inputs_of_pending pending
  obtain ⟨not_reserved, -⟩ := planWf_fields (inv.plan_wf (by simp [committed, pending]))
  refine ⟨rfl, hserdy, pllrdy, sws, ?_⟩
  rw [inv.stage_of_pending pending]
  exact ⟨pending, inv.pllon_of_pending pending, not_reserved⟩

/-- Every sequencer step keeps it: the oscillator's and the PLL's wait end in their error only, and the switch to the internal
oscillator is confirmed at the first poll. -/
theorem AbsentCourse.seq {p : Plan} {s : State} (h : AbsentCourse p s) :
    ∃ t, applyMove .seq s = .next t ∧ AbsentCourse p t := by
  obtain ⟨rfl, hserdy, pllrdy, sws, here⟩ := h
  rcases state_cases s.status.state with hs | hs | hs | hs | hs | hs | hs | hs | hs | hs | hs | hs | hs | hs | hs | hs <;>
    rw [stage, hs] at here <;> rw [applyMove, hs]
  · -- `IDLE`
    obtain ⟨pending, off, not_reserved⟩ := here
    refine ⟨_, exec_idle_of_pending pending, rfl, hserdy, pllrdy, sws, ?_⟩
    cases ext : s.plan.extSelected with
    | true => rfl
    | false =>
      cases pll : s.plan.pllSelected with
      | true => exact ⟨rfl, rfl, off⟩
      | false => exact src_eq_internal not_reserved ext pll
  · -- `HSE_EN`
    exact ⟨_, rfl, rfl, hserdy, pllrdy, sws, here⟩
  · -- `HSE_WAIT`
    refine ⟨_, rfl, ?_⟩
    obtain e | e := poll_of_unready hserdy Config.params.nOsc _ .oscillatorStartup s <;> rw [e]
    · exact ⟨rfl, hserdy, pllrdy, sws, .inl ⟨here, rfl⟩⟩
    · exact ⟨rfl, hserdy, pllrdy, sws, by rw [stage, hs]; exact here⟩
  · -- `PLL_CFG`
    obtain ⟨ext, pll, off⟩ := here
    exact ⟨_, exec_pllCfg_of_off off, rfl, hserdy, pllrdy, sws, ext, pll⟩
  · -- `PLL_EN`
    exact ⟨_, rfl, rfl, hserdy, pllrdy, sws, here⟩
  · -- `PLL_WAIT`
    obtain ⟨ext, pll⟩ := here
    refine ⟨_, rfl, ?_⟩
    obtain e | e := poll_of_unready pllrdy Config.params.nPll Code.flashWs .pllLock s <;> rw [e]
    · exact ⟨rfl, hserdy, pllrdy, sws, .inr ⟨ext, pll, rfl⟩⟩
    · exact ⟨rfl, hserdy, pllrdy, sws, by rw [stage, hs]; exact ⟨ext, pll⟩⟩
  · -- `FLASH_WS`
    refine ⟨_, rfl, rfl, hserdy, pllrdy, sws, ?_⟩
    cases raiseFirst s <;> exact here
  · -- `PRESC_PRE`
    exact ⟨_, rfl, rfl, hserdy, pllrdy, sws, here⟩
  · -- `SW_SET`
    exact ⟨_, rfl, rfl, hserdy, pllrdy, sws, here⟩
  · -- `SW_WAIT`
    have confirmed : (s.cfgr.sws == s.plan.src) = true := beq_iff_eq.mpr (sws.trans here.symm)
    refine ⟨_, congrArg Host.Outcome.next (poll_of_ready confirmed ..), rfl, hserdy, pllrdy, sws, ?_⟩
    cases raiseFirst s <;> exact here
  · -- `PRESC_POST`
    exact ⟨_, rfl, rfl, hserdy, pllrdy, sws, here⟩
  · -- `EMIT`
    exact ⟨_, rfl, rfl, hserdy, pllrdy, sws, here⟩
  · -- `DONE`
    exact ⟨s, rfl, rfl, hserdy, pllrdy, sws, by rw [stage, hs]; exact here⟩
  · -- `FAILED`
    exact ⟨s, rfl, rfl, hserdy, pllrdy, sws, by rw [stage, hs]; exact here⟩
  · -- `RSVD14`
    exact here.elim
  · -- `RSVD15`
    exact here.elim

/-- So does a run of sequencer steps alone, however long. -/
theorem AbsentCourse.run {p : Plan} {s : State} (h : AbsentCourse p s) (n : Nat) :
    ∃ t, runMoves (List.replicate n .seq) s = .next t ∧ AbsentCourse p t := by
  induction n generalizing s with
  | zero => exact ⟨s, rfl, h⟩
  | succ n ih =>
    obtain ⟨u, move, hu⟩ := h.seq
    rw [List.replicate_succ, runMoves, move]
    exact ih hu

/-- Its ends, by what the plan needs. -/
theorem AbsentCourse.ends {p : Plan} {s : State} (h : AbsentCourse p s) (ended : terminal s = true) :
    (s.status.state = 12#4 ∧ p.src = 0b00#2)
    ∨ (s.status.state = 13#4 ∧ p.extSelected = true ∧ s.status.err = 1#2)
    ∨ (s.status.state = 13#4 ∧ p.extSelected = false ∧ p.pllSelected = true ∧ s.status.err = 2#2) := by
  obtain ⟨-, -, -, -, here⟩ := h
  rcases (terminal_iff s).mp ended with hs | hs <;> rw [stage, hs] at here
  · exact .inl ⟨hs, here⟩
  · exact .inr (here.imp (⟨hs, ·⟩) (⟨hs, ·⟩))

theorem seqCount_replicate_seq (n : Nat) : seqCount (List.replicate n .seq) = n := by
  simp [seqCount]

/-- A plan on the internal oscillator needs neither the external one nor the PLL (rule R85). -/
theorem selects_nothing_of_internal {p : Plan} (h : p.src = 0b00#2) : p.extSelected = false ∧ p.pllSelected = false := by
  simp [Plan.extSelected, Plan.pllSelected, h]

/-- Settles O59: after as many sequencer steps as the bound of rule R155 the run has ended, on the absent course, and its three ends
exclude each other. -/
theorem theAbsentScheduleTimesOut : Obligations.TheAbsentScheduleTimesOut := by
  intro s inv pending
  obtain ⟨t, run, course⟩ := (inv.absentCourse pending).run (stepsLeft Config.params s)
  have ended : terminal t = true :=
    terminal_of_stepsLeft_le (by simp [committed, pending]) (by simp) run (seqCount_replicate_seq _).ge
  refine ⟨stepsLeft Config.params s, t, run, ?_⟩
  obtain ⟨done, internal⟩ | ⟨failed, ext, err⟩ | ⟨failed, ext, pll, err⟩ := course.ends ended
  · obtain ⟨no_ext, no_pll⟩ := selects_nothing_of_internal internal
    simp [done, no_ext, no_pll]
  · have not_internal : s.plan.src ≠ 0b00#2 := fun h => by simp [selects_nothing_of_internal h] at ext
    simp [failed, ext, err, not_internal]
  · have not_internal : s.plan.src ≠ 0b00#2 := fun h => by simp [selects_nothing_of_internal h] at pll
    simp [failed, ext, pll, err, not_internal]

end Sys2Proof.Machine
end

section
/-! PROOFS of the family 60_exceptions: error entry (rules R170, R172, R174), the phases (rule R181), and what each error leaves behind
(rules R154, R175). -/

namespace Sys2Proof.Machine

/-! ## Error entry (rules R170, R172, R174) -/

/-- A poll that changes `ERR` is unsuccessful, has reached its bound, and is error entry. -/
theorem poll_eq_raiseError_of_err {ready : Bool} {bound : Nat} {c : BitVec 4} {e : TimeoutError} {s : State}
    (changed : (poll ready bound c e s).status.err ≠ s.status.err) :
    ready = false ∧ bound ≤ s.cnt.toNat + 1 ∧ poll ready bound c e s = raiseError e s := by
  obtain ⟨-, going_on⟩ | raised | ⟨-, -, counted⟩ := poll_cases ready bound c e s
  · exact absurd (by rw [going_on]; rfl) changed
  · exact raised
  · exact absurd (by rw [counted]) changed

/-- Settles O33: only a wait can change `ERR`, and only by the poll that raises its error. -/
theorem errorEntryWritesTheCodeAndFailedOnly : Obligations.ErrorEntryWritesTheCodeAndFailedOnly := by
  intro i s t h changed
  obtain rfl | rfl | rfl := (exec_frame h).err changed <;> obtain rfl := Host.Outcome.next.inj h <;>
    obtain ⟨unready, reached, raised⟩ := poll_eq_raiseError_of_err changed
  · exact ⟨1#2, raised, .inl ⟨rfl, rfl, unready, reached⟩⟩
  · exact ⟨2#2, raised, .inr (.inl ⟨rfl, rfl, unready, reached⟩)⟩
  · exact ⟨3#2, raised, .inr (.inr ⟨rfl, rfl, ne_of_beq_false unready, reached⟩)⟩

/-! ## The phases (rule R181) -/

/-- A commit that is pending or running has been accepted. -/
theorem committed_of_committing {s : State} (h : committing s = true) : committed s = true := by
  by_cases idle : s.status.state = Code.idle
  · have pending : s.status.startPend = true := by simpa [committing, busy, idle] using h
    simp [committed, pending]
  · simpa [committed] using .inr idle

/-- Settles O37: a committed state stays committed (R213.7), and a terminal one keeps its `STATUS` (R151, R152). -/
theorem thePhaseMovesOnlyForward : Obligations.ThePhaseMovesOnlyForward := by
  intro m s t not_reset h
  have locked (hc : committed s = true) : unlocked t = false := by
    obtain ⟨-, still⟩ := thePlanIsLockedOnceCommitted m s t not_reset hc h
    simp [unlocked_eq_not_committed, still]
  refine ⟨fun free => ?unlocked, fun ended => ?terminal, fun hc => locked (committed_of_committing hc)⟩
  case unlocked =>
    by_contra hs
    have hc : committed s = true := by simpa [unlocked_eq_not_committed] using hs
    simp [locked hc] at free
  case terminal =>
    obtain ⟨status, -⟩ := terminalStatesAreAbsorbing m s t not_reset ((terminal_iff s).mp ended) h
    rwa [terminal, status]

/-! ## What an error leaves behind (rules R154, R172, R175) -/

section
variable {cfg : Config.Params} {s : State}

/-- Before `SW_SET` the internal oscillator is the active source (rule R213.5). -/
theorem RunInv.sws_of_not_afterSwSet (inv : RunInv cfg s) (before : ¬ afterSwSet s) : s.cfgr.sws = 0b00#2 := by
  by_contra active
  exact before (inv.switched active).1

theorem stage_of_failed (h : s.status.state = Code.failed) : stage s = 13 := by simp [stage, h]

/-- After any error the external oscillator is enabled iff the plan selects it. -/
theorem RunInv.hseon_of_failed (inv : RunInv cfg s) (failed : s.status.state = Code.failed) :
    s.cr.hseon = s.plan.extSelected := by
  have hc : committed s = true := by simp [committed, failed]
  exact Bool.eq_iff_iff.mpr (by simp [inv.hseon_iff, hc, stage_of_failed failed])

/-- Its mode bit is then the plan's. -/
theorem RunInv.hsebyp_of_failed (inv : RunInv cfg s) (failed : s.status.state = Code.failed) :
    s.cr.hsebyp = (s.plan.extSelected && s.plan.hsebyp) := by
  rw [inv.hsebyp_plan, inv.hseon_of_failed failed]

/-- Errors 1 and 2 are raised before `FLASH_WS`: they leave the wait states, the prescalers and the mux as reset does. -/
theorem RunInv.reset_fields_of_failed (inv : RunInv cfg s) (failed : s.status.state = Code.failed)
    (early : s.status.err ≠ errCode .clockSwitch) :
    s.acr.latency = 0#3 ∧ PrescalersReset s ∧ s.cfgr.sw = 0b00#2 ∧ s.cfgr.sws = 0b00#2 := by
  have here := stage_of_failed failed
  have not_switched : ¬ afterSwSet s := by simp [afterSwSet, here, early]
  have not_written : ¬ prescalersWritten s := by simp [prescalersWritten, here, early]
  exact ⟨inv.latency_before (.inr ⟨here, early⟩), inv.prescalers_before not_written, inv.sw_before not_switched,
    inv.sws_of_not_afterSwSet not_switched⟩

/-- The mux reports the internal oscillator or the plan's source; after error 3 the latter is a late switch (rules R210, R213.5). -/
theorem RunInv.sws_internal_or_plan (inv : RunInv cfg s) : s.cfgr.sws = 0b00#2 ∨ s.cfgr.sws = s.plan.src := by
  by_cases internal : s.cfgr.sws = 0b00#2
  · exact .inl internal
  · exact .inr (inv.switched internal).2

/-- After error 3 a PLL the plan selects is running: `PLL_WAIT` has seen it locked (rules R115, R213.4). -/
theorem RunInv.pllon_of_switch_failed (inv : RunInv cfg s) (failed : s.status.state = Code.failed)
    (err : s.status.err = errCode .clockSwitch) (selected : s.plan.pllSelected = true) : s.cr.pllon = true := by
  have past_wait : ¬ stage s ≤ 5 := by simp [stage_of_failed failed]
  exact inv.pllrdy_pllon (inv.pll_ready past_wait (by simp [err, errCode]) (by simp [err, errCode]) selected)

end

/-- Settles O54, error by error: each column of rule R175 is what the invariant says of the stage the error was raised at. -/
theorem theResidueOfEachError : Obligations.TheResidueOfEachError := by
  intro cfg s inv failed
  have not_done : s.status.state ≠ Code.done := by simp [failed]
  have hseon := inv.hseon_of_failed failed
  have hsebyp := inv.hsebyp_of_failed failed
  refine ⟨fun err => ?oscillator, fun err => ?pll, fun err => ?switch, inv.cur_before not_done, inv.record_before not_done⟩
  case oscillator =>
    have selected := inv.osc_error err
    obtain ⟨latency, prescalers, sw, sws⟩ := inv.reset_fields_of_failed failed (by simp [err, errCode])
    exact ⟨hseon.trans selected, by simpa [selected] using hsebyp, inv.pll_unused (.inr err),
      inv.params_reset (.inr (.inr err)), latency, prescalers, sw, sws, inv.osc_count err⟩
  case pll =>
    have on := inv.pll_on (.inr err)
    obtain ⟨latency, prescalers, sw, sws⟩ := inv.reset_fields_of_failed failed (by simp [err, errCode])
    exact ⟨hseon, hsebyp, on, inv.pllon_params on, latency, prescalers, sw, sws, inv.pll_count err⟩
  case switch =>
    have after : afterSwSet s := .inr ⟨stage_of_failed failed, err⟩
    refine ⟨hseon, hsebyp, inv.latency_after (not_beforeFlash_of_afterSwSet after), inv.sw_after after,
      inv.sws_internal_or_plan, fun selected => ?locked, fun unused => ?unused, fun raising => ?raising,
      fun lowering => ?lowering, inv.sw_count err⟩
    case locked =>
      have on := inv.pllon_of_switch_failed failed err selected
      exact ⟨on, inv.pllon_params on⟩
    case unused => exact ⟨inv.pll_unused (.inl unused), inv.params_reset (.inr (.inl unused))⟩
    case raising => exact inv.prescalers_after (inv.prescalersWritten_of_raising after raising)
    case lowering =>
      exact inv.prescalers_before (not_prescalersWritten_of_lowering (.inr (stage_of_failed failed)) lowering)

/-! ## The failing poll (rules R134, R175; of `SWS` by rule R164, log 17) -/

/-- A code names its micro-operation alone (rule R81). -/
theorem decodeUop_injective : Function.Injective decodeUop := by
  unfold Function.Injective
  decide

/-- Up to and at `SW_SET`'s own state the internal oscillator is active. -/
theorem RunInv.sws_of_stage_le {cfg : Config.Params} {s : State} (inv : RunInv cfg s) (early : stage s ≤ 8) :
    s.cfgr.sws = 0b00#2 :=
  inv.sws_of_not_afterSwSet (by rintro (⟨late, -⟩ | ⟨failed, -⟩) <;> omega)

/-- Settles O55: the poll writes no input (R163); before `SW_SET` the mux has not moved, and at `SW_WAIT` a mux that had moved would
report the plan's source, with which the poll succeeds. -/
theorem theFailingPollLeavesTheActiveSource : Obligations.TheFailingPollLeavesTheActiveSource := by
  intro s t inv h changed
  obtain ⟨-, -, unaltered⟩ := (exec_frame h).inputs
  suffices internal : s.cfgr.sws = 0b00#2 from ⟨unaltered.trans internal, unaltered⟩
  obtain ⟨-, -, ⟨wait, -⟩ | ⟨wait, -⟩ | ⟨-, -, unconfirmed, -⟩⟩ := errorEntryWritesTheCodeAndFailedOnly _ s t h changed
  · have here : s.status.state = Code.hseWait := decodeUop_injective wait
    exact inv.sws_of_stage_le (by simp [stage, here])
  · have here : s.status.state = Code.pllWait := decodeUop_injective wait
    exact inv.sws_of_stage_le (by simp [stage, here])
  · exact inv.sws_internal_or_plan.resolve_right unconfirmed

end Sys2Proof.Machine
end

section
/-! PROOFS of the family 70_reset_and_hazards, first part: the run invariant in two parts. What the clock tree's registers hold is
told by how far the commit has come (`ClockInv`); where the commit stands, what `CNT` counts and whether there is a record is
the other part (`ControlInv`). A commit that has failed has come as far as the wait it failed in (rule R175), so error entry
leaves the first part as it is. -/

namespace Sys2Proof.Machine

/-! ## How far a commit has come -/

/-- The state whose wait raises an error (rules R112, R115, R134). -/
def waitCode : TimeoutError → BitVec 4
  | .oscillatorStartup => Code.hseWait
  | .pllLock => Code.pllWait
  | .clockSwitch => Code.swWait

/-- The polls a wait makes before it raises its error (rules R112, R115, R134). -/
def pollBound (cfg : Config.Params) : TimeoutError → Nat
  | .oscillatorStartup => cfg.nOsc
  | .pllLock => cfg.nPll
  | .clockSwitch => cfg.nSw

/-- The stage a commit has reached: its own, or, after `FAILED`, the one of the wait that failed (rule R175). -/
def reached (s : State) : Nat :=
  if s.status.state = Code.failed then
    match s.status.err.toNat with
    | 1 => 2
    | 2 => 5
    | _ => 9
  else stage s

/-- The prescalers are the plan's at stage `n`: after `PRESC_POST`, and in dividers-first order after `PRESC_PRE` (rule R131). -/
def prescalersDue (raising : Bool) (n : Nat) : Bool :=
  n == 11 || n == 12 || (decide (8 ≤ n) && decide (n ≤ 9) && raising)

/-- What the clock tree holds when the commit has come to stage `n`, and what is then known of the plan. Every condition on `n`
computes: from one stage to the next, a field that changes nowhere between them is the same statement. -/
structure ClockInv (s : State) (n : Nat) : Prop where
  hseon : s.cr.hseon = (decide (2 ≤ n) && s.plan.extSelected)
  hsebyp : s.cr.hsebyp = (s.cr.hseon && s.plan.hsebyp)
  hserdy : s.cr.hserdy = true → s.cr.hseon = true
  hse_selected : (decide (1 ≤ n) && decide (n ≤ 2)) = true → s.plan.extSelected = true
  hse_ready : (decide (3 ≤ n) && s.plan.extSelected) = true → s.cr.hserdy = true
  pllon : s.cr.pllon = (decide (5 ≤ n) && s.plan.pllSelected)
  pllrdy : s.cr.pllrdy = true → s.cr.pllon = true
  pll_selected : (decide (3 ≤ n) && decide (n ≤ 5)) = true → s.plan.pllSelected = true
  pll_ready : (decide (6 ≤ n) && s.plan.pllSelected) = true → s.cr.pllrdy = true
  params : if decide (4 ≤ n) && s.plan.pllSelected then PllParamsPlan s else PllParamsReset s
  latency : s.acr.latency = if n ≤ 6 then 0#3 else s.plan.ws
  raising : (n == 7) = true → raiseFirst s = true
  lowering : (n == 10) = true → raiseFirst s = false
  prescalers : if prescalersDue (raiseFirst s) n then PrescalersPlan s else PrescalersReset s
  sw : s.cfgr.sw = if n ≤ 8 then 0b00#2 else s.plan.src
  sws : s.cfgr.sws = 0b00#2 ∨ s.cfgr.sws = s.cfgr.sw
  confirmed : decide (10 ≤ n) = true → s.cfgr.sws = s.plan.src

/-- The fields of the run invariant on the program counter, the errors, `CNT`, `CUR_SYSCLK` and the record, as it has them. -/
structure ControlInv (cfg : Config.Params) (s : State) : Prop where
  no_reserved : stage s ≤ 13
  pend_idle : s.status.startPend = true → s.status.state = Code.idle
  plan_wf : committed s = true → planWf cfg s.plan = true
  cnt_bound : s.cnt.toNat < max cfg.nOsc (max cfg.nPll cfg.nSw)
  cnt_reset : stage s ≤ 1 → s.cnt = 0#32
  osc_polls : stage s = 2 → s.cnt.toNat < cfg.nOsc
  pll_polls : stage s = 5 → s.cnt.toNat < cfg.nPll
  sw_polls : stage s = 9 → s.cnt.toNat < cfg.nSw
  osc_count : s.status.err = errCode .oscillatorStartup → s.cnt.toNat + 1 = cfg.nOsc
  pll_count : s.status.err = errCode .pllLock → s.cnt.toNat + 1 = cfg.nPll
  sw_count : s.status.err = errCode .clockSwitch → s.cnt.toNat + 1 = cfg.nSw
  valid_iff_done : s.status.fcValid = true ↔ s.status.state = Code.done
  err_iff_failed : s.status.err ≠ 0#2 ↔ s.status.state = Code.failed
  cur_before : s.status.state ≠ Code.done → s.curSysclk = BitVec.ofNat 32 cfg.fInt
  cur_after : s.status.state = Code.done → s.curSysclk = s.plan.f.sysclk
  record_before : s.status.state ≠ Code.done → RecordEmpty s
  record_after : s.status.state = Code.done → RecordPlan s

theorem errCode_injective : Function.Injective errCode := by
  intro e e' h
  cases e <;> cases e' <;> simp_all [errCode]

theorem waitCode_injective : Function.Injective waitCode := by
  intro e e' h
  cases e <;> cases e' <;> simp_all [waitCode]

section
variable {cfg : Config.Params} {s : State} {n : Nat}

theorem reached_of_not_failed (h : s.status.state ≠ Code.failed) : reached s = stage s := if_neg h

theorem reached_of_failed {e : TimeoutError} (h : s.status.state = Code.failed) (he : s.status.err = errCode e) :
    reached s = (waitCode e).toNat := by
  rw [reached, if_pos h, he]
  cases e <;> rfl

/-- An error recorded is one of the three (rule R170). -/
theorem exists_errCode {c : BitVec 2} (h : c ≠ 0#2) : ∃ e, c = errCode e := by
  rcases err_cases h with rfl | rfl | rfl
  exacts [⟨.oscillatorStartup, rfl⟩, ⟨.pllLock, rfl⟩, ⟨.clockSwitch, rfl⟩]

/-- A commit has not failed and stands where it has come to, or it has failed in one of the three waits. -/
theorem ControlInv.reached_cases (h : ControlInv cfg s) :
    (stage s ≤ 12 ∧ s.status.err = 0#2 ∧ reached s = stage s)
    ∨ (stage s = 13 ∧ s.status.err = errCode .oscillatorStartup ∧ reached s = 2)
    ∨ (stage s = 13 ∧ s.status.err = errCode .pllLock ∧ reached s = 5)
    ∨ (stage s = 13 ∧ s.status.err = errCode .clockSwitch ∧ reached s = 9) := by
  by_cases failed : s.status.state = Code.failed
  · obtain ⟨e, he⟩ := exists_errCode (h.err_iff_failed.mpr failed)
    rw [stage_of_failed failed, reached_of_failed failed he, he]
    cases e <;> simp [waitCode, errCode]
  · have no_error : s.status.err = 0#2 := not_not.mp (mt h.err_iff_failed.mp failed)
    have not_13 : stage s ≠ 13 := fun h13 => failed (BitVec.eq_of_toNat_eq h13)
    have := h.no_reserved
    exact .inl ⟨by omega, no_error, reached_of_not_failed failed⟩

/-! The conditions of the run invariant, each as a condition on the stage reached: the four cases of `reached_cases`. -/

theorem ControlInv.beforeFlash_iff (h : ControlInv cfg s) : beforeFlash s ↔ reached s ≤ 6 := by
  grind [h.reached_cases, beforeFlash, errCode]

theorem ControlInv.afterSwSet_iff (h : ControlInv cfg s) : afterSwSet s ↔ 9 ≤ reached s := by
  grind [h.reached_cases, afterSwSet, errCode]

theorem ControlInv.prescalersWritten_iff (h : ControlInv cfg s) :
    prescalersWritten s ↔ prescalersDue (raiseFirst s) (reached s) = true := by
  grind [h.reached_cases, prescalersWritten, prescalersDue, errCode]

theorem ControlInv.two_le_reached_iff (h : ControlInv cfg s) : 2 ≤ reached s ↔ 2 ≤ stage s := by
  grind [h.reached_cases]

theorem ControlInv.reached_hse_iff (h : ControlInv cfg s) :
    (1 ≤ reached s ∧ reached s ≤ 2) ↔ (1 ≤ stage s ∧ stage s ≤ 2) ∨ s.status.err = errCode .oscillatorStartup := by
  grind [h.reached_cases, errCode]

theorem ControlInv.past_hseWait_iff (h : ControlInv cfg s) :
    3 ≤ reached s ↔ 3 ≤ stage s ∧ s.status.err ≠ errCode .oscillatorStartup := by
  grind [h.reached_cases, errCode]

theorem ControlInv.reached_le_iff (h : ControlInv cfg s) (hn : 2 ≤ n ∧ n ≤ 4) :
    reached s ≤ n ↔ stage s ≤ n ∨ s.status.err = errCode .oscillatorStartup := by
  grind [h.reached_cases, errCode]

theorem ControlInv.reached_pllWait_iff (h : ControlInv cfg s) :
    reached s = 5 ↔ stage s = 5 ∨ s.status.err = errCode .pllLock := by
  grind [h.reached_cases, errCode]

theorem ControlInv.past_pllWait_iff (h : ControlInv cfg s) :
    6 ≤ reached s ↔ ¬ stage s ≤ 5 ∧ s.status.err ≠ errCode .oscillatorStartup ∧ s.status.err ≠ errCode .pllLock := by
  grind [h.reached_cases, errCode]

theorem ControlInv.past_swWait_iff (h : ControlInv cfg s) : 10 ≤ reached s ↔ 10 ≤ stage s ∧ stage s ≤ 12 := by
  grind [h.reached_cases]

/-- Outside the waits the stage reached is the stage itself. -/
theorem ControlInv.reached_eq_iff (h : ControlInv cfg s) (hn : n ∉ [2, 5, 9] ∧ n ≤ 12) : reached s = n ↔ stage s = n := by
  grind [h.reached_cases]

/-! ## The run invariant is its two parts -/

theorem RunInv.control (inv : RunInv cfg s) : ControlInv cfg s := { inv with }

/-- Past `IDLE` a commit has been accepted. -/
theorem committed_of_stage_pos (h : 1 ≤ stage s) : committed s = true := by
  have left : s.status.state ≠ Code.idle := fun idle => by simp [stage, idle] at h
  simp [committed, left]

/-- The PLL is on for a plan that selects it, from `PLL_EN` on (rules R114, R175). -/
theorem RunInv.pllon_eq (inv : RunInv cfg s) : s.cr.pllon = (decide (5 ≤ reached s) && s.plan.pllSelected) := by
  have h := inv.control
  cases selected : s.plan.pllSelected with
  | false => simp [inv.pll_unused (.inl selected)]
  | true =>
    rcases lt_trichotomy (reached s) 5 with early | waiting | late
    · have off : s.cr.pllon = false := by
        obtain early | err := (h.reached_le_iff (n := 4) (by decide)).mp (by omega)
        · exact inv.pll_off early
        · exact inv.pll_unused (.inr err)
      simp [off, early]
    · simp [inv.pll_on (h.reached_pllWait_iff.mp waiting), waiting]
    · obtain ⟨past, not_osc, not_pll⟩ := h.past_pllWait_iff.mp late
      simp [inv.pllrdy_pllon (inv.pll_ready past not_osc not_pll selected), late.le]

/-- The external oscillator is on for a plan that selects it, from `HSE_EN` on (rules R111, R175). -/
theorem RunInv.hseon_eq (inv : RunInv cfg s) : s.cr.hseon = (decide (2 ≤ reached s) && s.plan.extSelected) := by
  have accepted : 2 ≤ stage s → committed s = true := fun late => committed_of_stage_pos (by omega)
  rw [Bool.eq_iff_iff, inv.hseon_iff, ← and_assoc, and_right_comm, and_iff_right_of_imp accepted]
  simp [inv.control.two_le_reached_iff]

/-- The mux reports the internal oscillator or the source it is asked for (rules R162, R213.5). -/
theorem RunInv.sws_internal_or_requested (inv : RunInv cfg s) : s.cfgr.sws = 0b00#2 ∨ s.cfgr.sws = s.cfgr.sw := by
  by_cases internal : s.cfgr.sws = 0b00#2
  · exact .inl internal
  · obtain ⟨after, src⟩ := inv.switched internal
    exact .inr (src.trans (inv.sw_after after).symm)

/-- In a run the clock tree holds what the stage reached says. -/
theorem RunInv.clock (inv : RunInv cfg s) : ClockInv s (reached s) := by
  have h := inv.control
  exact {
    hseon := inv.hseon_eq
    hsebyp := inv.hsebyp_plan
    hserdy := inv.hserdy_hseon
    hse_selected := fun here => by
      simp only [Bool.and_eq_true, decide_eq_true_eq, h.reached_hse_iff] at here
      obtain ⟨from1, to2⟩ | err := here
      · exact inv.hse_selected from1 to2
      · exact inv.osc_error err
    hse_ready := fun here => by
      simp only [Bool.and_eq_true, decide_eq_true_eq, h.past_hseWait_iff] at here
      obtain ⟨⟨past, no_error⟩, selected⟩ := here
      exact inv.hse_ready past no_error selected
    pllon := inv.pllon_eq
    pllrdy := inv.pllrdy_pllon
    pll_selected := fun here => by
      simp only [Bool.and_eq_true, decide_eq_true_eq] at here
      by_cases waiting : reached s = 5
      · simpa [inv.pllon_eq, waiting] using inv.pll_on (h.reached_pllWait_iff.mp waiting)
      · have same : reached s = stage s := by grind [h.reached_cases]
        exact inv.pll_selected (by omega) (by omega)
    pll_ready := fun here => by
      simp only [Bool.and_eq_true, decide_eq_true_eq, h.past_pllWait_iff] at here
      obtain ⟨⟨past, not_osc, not_pll⟩, selected⟩ := here
      exact inv.pll_ready past not_osc not_pll selected
    params := by
      split_ifs with due
      · obtain ⟨from4, selected⟩ : 4 ≤ reached s ∧ s.plan.pllSelected = true := by simpa using due
        by_cases enabling : reached s = 4
        · exact inv.params_written ((h.reached_eq_iff (by decide)).mp enabling)
        · exact inv.pllon_params (by simp [inv.pllon_eq, selected]; omega)
      · cases selected : s.plan.pllSelected with
        | false => exact inv.params_reset (.inr (.inl selected))
        | true =>
          have early : reached s ≤ 3 := by simpa [selected, Nat.lt_succ_iff] using due
          exact inv.params_reset (((h.reached_le_iff (by decide)).mp early).imp_right .inr)
    latency := by
      split_ifs with early
      · exact inv.latency_before (h.beforeFlash_iff.mpr early)
      · exact inv.latency_after (mt h.beforeFlash_iff.mp early)
    raising := fun here => inv.pre_raising ((h.reached_eq_iff (by decide)).mp (beq_iff_eq.mp here))
    lowering := fun here => inv.post_lowering ((h.reached_eq_iff (by decide)).mp (beq_iff_eq.mp here))
    prescalers := by
      split_ifs with due
      · exact inv.prescalers_after (h.prescalersWritten_iff.mpr due)
      · exact inv.prescalers_before (mt h.prescalersWritten_iff.mp due)
    sw := by
      split_ifs with early
      · exact inv.sw_before (mt h.afterSwSet_iff.mp (by omega))
      · exact inv.sw_after (h.afterSwSet_iff.mpr (by omega))
    sws := inv.sws_internal_or_requested
    confirmed := fun past => by
      obtain ⟨from10, to12⟩ := h.past_swWait_iff.mp (of_decide_eq_true past)
      exact inv.confirmed from10 to12 }

/-! What the clock part says, with its conditions as propositions. -/

theorem ClockInv.params_plan (k : ClockInv s n) (from4 : 4 ≤ n) (selected : s.plan.pllSelected = true) : PllParamsPlan s := by
  simpa [from4, selected] using k.params

theorem ClockInv.params_reset (k : ClockInv s n) (unwritten : n ≤ 3 ∨ s.plan.pllSelected = false) : PllParamsReset s := by
  have not_due : ¬ (decide (4 ≤ n) && s.plan.pllSelected) = true := by
    rcases unwritten with early | unused
    · simp [Nat.not_le.mpr (Nat.lt_succ_of_le early)]
    · simp [unused]
  exact (if_neg not_due).mp k.params

theorem ClockInv.sw_plan (k : ClockInv s n) (after : 9 ≤ n) : s.cfgr.sw = s.plan.src :=
  k.sw.trans (if_neg (by omega))

/-- Another source than the internal oscillator is active only after `SW_SET`, and is the plan's (rule R213.5). -/
theorem ClockInv.source_of_active (k : ClockInv s n) (active : s.cfgr.sws ≠ 0b00#2) : 9 ≤ n ∧ s.cfgr.sws = s.plan.src := by
  have requested := k.sws.resolve_left active
  have after : 9 ≤ n := by
    by_contra before
    exact active (requested.trans (k.sw.trans (if_pos (by omega))))
  exact ⟨after, requested.trans (k.sw_plan after)⟩

/-- The two parts together are the run invariant. -/
theorem ControlInv.runInv (h : ControlInv cfg s) (k : ClockInv s (reached s)) : RunInv cfg s where
  __ := h
  pllon_params on := by
    obtain ⟨late, selected⟩ : 5 ≤ reached s ∧ s.plan.pllSelected = true := by simpa [k.pllon] using on
    exact k.params_plan (by omega) selected
  hserdy_hseon := k.hserdy
  pllrdy_pllon := k.pllrdy
  switched active := (k.source_of_active active).imp_left h.afterSwSet_iff.mpr
  sw_before before := k.sw.trans (if_pos (by have := mt h.afterSwSet_iff.mpr before; omega))
  sw_after after := k.sw_plan (h.afterSwSet_iff.mp after)
  ext_active_ready active := by
    obtain ⟨late, src⟩ := k.source_of_active (by simp [active])
    exact k.hse_ready (by simp [Plan.extSelected, ← src, active]; omega)
  pll_active_ready active := by
    obtain ⟨late, src⟩ := k.source_of_active (by simp [active])
    exact k.pll_ready (by simp [Plan.pllSelected, ← src, active]; omega)
  hseon_iff := by
    have accepted : 2 ≤ stage s → committed s = true := fun late => committed_of_stage_pos (by omega)
    rw [← and_assoc, and_right_comm, and_iff_right_of_imp accepted, k.hseon]
    simp [h.two_le_reached_iff]
  hsebyp_plan := k.hsebyp
  hse_selected from1 to2 := k.hse_selected (by simpa using h.reached_hse_iff.mpr (.inl ⟨from1, to2⟩))
  osc_error err := k.hse_selected (by simpa using h.reached_hse_iff.mpr (.inr err))
  pll_selected from3 to5 := by
    have same : reached s = stage s := by grind [h.reached_cases]
    exact k.pll_selected (by simp [same, from3, to5])
  hse_ready past no_error selected := k.hse_ready (by simp [h.past_hseWait_iff.mpr ⟨past, no_error⟩, selected])
  pll_ready past not_osc not_pll selected :=
    k.pll_ready (by simp [h.past_pllWait_iff.mpr ⟨past, not_osc, not_pll⟩, selected])
  pll_off early := by
    have : reached s ≤ 4 := (h.reached_le_iff (by decide)).mpr (.inl early)
    simp [k.pllon, Nat.lt_succ_of_le this]
  pll_on waiting := by
    have here := h.reached_pllWait_iff.mpr waiting
    simp [k.pllon, here, k.pll_selected (by simp [here])]
  pll_unused := by
    rintro (unused | err)
    · simp [k.pllon, unused]
    · have : reached s ≤ 4 := (h.reached_le_iff (by decide)).mpr (.inr err)
      simp [k.pllon, Nat.lt_succ_of_le this]
  params_written here := by
    have here : reached s = 4 := (h.reached_eq_iff (by decide)).mpr here
    exact k.params_plan here.ge (k.pll_selected (by simp [here]))
  params_reset := by
    rintro (early | unused | err)
    · exact k.params_reset (.inl ((h.reached_le_iff (by decide)).mpr (.inl early)))
    · exact k.params_reset (.inr unused)
    · exact k.params_reset (.inl ((h.reached_le_iff (by decide)).mpr (.inr err)))
  latency_before early := k.latency.trans (if_pos (h.beforeFlash_iff.mp early))
  latency_after late := k.latency.trans (if_neg (mt h.beforeFlash_iff.mpr late))
  pre_raising here := k.raising (beq_iff_eq.mpr ((h.reached_eq_iff (by decide)).mpr here))
  post_lowering here := k.lowering (beq_iff_eq.mpr ((h.reached_eq_iff (by decide)).mpr here))
  prescalers_after written := (if_pos (h.prescalersWritten_iff.mp written)).mp k.prescalers
  prescalers_before unwritten := (if_neg (mt h.prescalersWritten_iff.mpr unwritten)).mp k.prescalers
  confirmed from10 to12 := k.confirmed (decide_eq_true (h.past_swWait_iff.mpr ⟨from10, to12⟩))

end

end Sys2Proof.Machine
end

section
/-! PROOFS of the family 70_reset_and_hazards, second part: every step keeps the run invariant (rule R213). One lemma per
micro-operation says what it does to the clock tree, from one stage to the next; the part on the program counter is kept by
every micro-operation alike. -/

namespace Sys2Proof.Machine

section
variable {cfg : Config.Params} {s : State} {n : Nat}

/-! ## The clock tree from one stage to the next

The fields a lemma does not name are the same statement at both stages. -/

/-- `IDLE` goes past the steps the plan does not need (rule R110). -/
theorem ClockInv.idle (k : ClockInv s 0) :
    ClockInv s (if s.plan.extSelected then Code.hseEn else if s.plan.pllSelected then Code.pllCfg else Code.flashWs).toNat := by
  have hseon : s.cr.hseon = false := k.hseon
  have pllon : s.cr.pllon = false := k.pllon
  have params : PllParamsReset s := k.params
  cases ext : s.plan.extSelected with
  | true => exact { k with hse_selected := fun _ => ext }
  | false =>
    cases pll : s.plan.pllSelected with
    | true => exact { k with hseon := by rwa [ext], hse_ready := by rw [ext]; nofun, pll_selected := fun _ => pll }
    | false =>
      exact { k with
        hseon := by rwa [ext]
        hse_ready := by rw [ext]; nofun
        pllon := by rwa [pll]
        pll_ready := by rw [pll]; nofun
        params := by rwa [pll] }

/-- `HSE_EN` (rule R111). -/
theorem ClockInv.hseEn (k : ClockInv s 1) : ClockInv { s with cr.hsebyp := s.plan.hsebyp, cr.hseon := true } 2 :=
  { k with hseon := (k.hse_selected rfl).symm, hsebyp := rfl, hserdy := fun _ => rfl }

/-- `HSE_WAIT` goes on once the oscillator is ready, past the PLL's steps where the plan does not need them (rule R112). -/
theorem ClockInv.hseWait (k : ClockInv s 2) (ready : s.cr.hserdy = true) :
    ClockInv s (if s.plan.pllSelected then Code.pllCfg else Code.flashWs).toNat := by
  have pllon : s.cr.pllon = false := k.pllon
  have params : PllParamsReset s := k.params
  cases pll : s.plan.pllSelected with
  | true => exact { k with hse_selected := nofun, hse_ready := fun _ => ready, pll_selected := fun _ => pll }
  | false =>
    exact { k with
      hse_selected := nofun
      hse_ready := fun _ => ready
      pllon := by rwa [pll]
      pll_ready := by rw [pll]; nofun
      params := by rwa [pll] }

/-- `PLL_CFG` (rule R113). -/
theorem ClockInv.pllCfg (k : ClockInv s 3) (wired : wirePlldiv cfg s.plan.plldiv = s.plan.plldiv) :
    ClockInv (writePllParams cfg s) 4 := by
  have selected : s.plan.pllSelected = true := k.pll_selected rfl
  exact { k with params := (if_pos selected).mpr ⟨rfl, wired, rfl⟩ }

/-- `PLL_EN` (rule R114). -/
theorem ClockInv.pllEn (k : ClockInv s 4) : ClockInv { s with cr.pllon := true } 5 :=
  { k with pllon := (k.pll_selected rfl).symm, pllrdy := fun _ => rfl }

/-- `PLL_WAIT` goes on once the PLL is locked (rule R115). -/
theorem ClockInv.pllWait (k : ClockInv s 5) (ready : s.cr.pllrdy = true) : ClockInv s 6 :=
  { k with pll_selected := nofun, pll_ready := fun _ => ready }

/-- `FLASH_WS`, and the choice of the order of steps 4 and 5 (rules R130, R131). -/
theorem ClockInv.flashWs (k : ClockInv s 6) :
    ClockInv { s with acr.latency := s.plan.ws } (if raiseFirst s then Code.prescPre else Code.swSet).toNat := by
  have prescalers : PrescalersReset s := k.prescalers
  cases raising : raiseFirst s with
  | true => exact { k with latency := rfl, raising := fun _ => raising }
  | false => exact { k with latency := rfl, prescalers := by rwa [raiseFirst_with_acr, raising] }

/-- `PRESC_PRE` (rule R132). -/
theorem ClockInv.prescPre (k : ClockInv s 7) (wired : wireUsbpre cfg s.plan.usbpre = s.plan.usbpre) :
    ClockInv (writePrescalers cfg s) 8 :=
  { k with raising := nofun, prescalers := (if_pos (k.raising rfl)).mpr ⟨rfl, rfl, rfl, wired⟩ }

/-- `SW_SET` (rule R133). -/
theorem ClockInv.swSet (k : ClockInv s 8) : ClockInv { s with cfgr.sw := s.plan.src } 9 := by
  have internal : s.cfgr.sws = 0b00#2 := k.sws.elim id (·.trans k.sw)
  exact { k with sw := rfl, sws := .inl internal }

/-- `SW_WAIT` goes on once the switch is confirmed (rule R134). -/
theorem ClockInv.swWait (k : ClockInv s 9) (confirmed : s.cfgr.sws = s.plan.src) :
    ClockInv s (if raiseFirst s then Code.emit else Code.prescPost).toNat := by
  have prescalers : if raiseFirst s then PrescalersPlan s else PrescalersReset s := k.prescalers
  cases raising : raiseFirst s with
  | false =>
    rw [raising] at prescalers
    exact { k with confirmed := fun _ => confirmed, lowering := fun _ => raising, prescalers }
  | true =>
    rw [raising] at prescalers
    exact { k with confirmed := fun _ => confirmed, prescalers }

/-- `PRESC_POST` (rule R135). -/
theorem ClockInv.prescPost (k : ClockInv s 10) (wired : wireUsbpre cfg s.plan.usbpre = s.plan.usbpre) :
    ClockInv (writePrescalers cfg s) 11 :=
  { k with lowering := nofun, prescalers := ⟨rfl, rfl, rfl, wired⟩ }

/-- `EMIT` (rule R150): the clock tree is left as it is. -/
theorem ClockInv.emit (k : ClockInv s 11) : ClockInv { s with curSysclk := s.plan.f.sysclk } 12 :=
  { k with raising := nofun, lowering := nofun }

/-- A transition of the clock tree keeps what any stage says (rules R160 to R162; of `SWS` by rule R164, log 17). -/
theorem ClockInv.envStep (k : ClockInv s n) (e : EnvEvent) : ClockInv (envStep e s) n := by
  obtain ⟨enabled, he⟩ | ⟨-, he⟩ := envStep_cases e s <;> rw [he]
  · cases e with
    | hseRdy =>
      obtain ⟨on, -⟩ := (envEnabled_hseRdy s).mp enabled
      exact { k with hserdy := fun _ => on, hse_ready := fun _ => rfl }
    | pllRdy =>
      obtain ⟨on, -⟩ := (envEnabled_pllRdy s).mp enabled
      exact { k with pllrdy := fun _ => on, pll_ready := fun _ => rfl }
    | switch =>
      exact { k with
        sws := .inr rfl
        confirmed := fun past => k.sw_plan ((show 9 ≤ 10 by decide).trans (of_decide_eq_true past)) }
  · exact k

/-- Before a commit nothing depends on the plan (rule R100). -/
theorem ClockInv.with_plan (k : ClockInv s 0) (p : Plan) : ClockInv { s with plan := p } 0 := by
  have hseon : s.cr.hseon = false := k.hseon
  have hsebyp : s.cr.hsebyp = false := by simpa [hseon] using k.hsebyp
  exact { k with
    hsebyp := by simp [hsebyp, hseon]
    hse_selected := nofun, pll_selected := nofun, raising := nofun, lowering := nofun, confirmed := nofun }

/-! ## The program counter, `CNT` and the record -/

@[simp] theorem stage_goto (c : BitVec 4) (s : State) : stage (goto c s) = c.toNat := rfl
@[simp] theorem stage_raiseError (e : TimeoutError) (s : State) : stage (raiseError e s) = 13 := rfl

theorem ControlInv.err_of_not_failed (h : ControlInv cfg s) (hs : s.status.state ≠ Code.failed) : s.status.err = 0#2 :=
  not_not.mp (mt h.err_iff_failed.mp hs)

theorem ControlInv.err_ne_errCode (h : ControlInv cfg s) (hs : s.status.state ≠ Code.failed) (e : TimeoutError) :
    s.status.err ≠ errCode e := by
  rw [h.err_of_not_failed hs]
  cases e <;> decide

theorem ControlInv.fcValid_of_not_done (h : ControlInv cfg s) (hs : s.status.state ≠ Code.done) :
    s.status.fcValid = false :=
  Bool.eq_false_iff.mpr (mt h.valid_iff_done.mp hs)

theorem ControlInv.startPend_of_not_idle (h : ControlInv cfg s) (hs : s.status.state ≠ Code.idle) :
    s.status.startPend = false :=
  Bool.eq_false_iff.mpr (mt h.pend_idle hs)

/-- An accepted commit that has not ended goes on to another step: to one that waits or to `HSE_EN` with `CNT` zero, to any other
with `CNT` zero or as it was. -/
theorem ControlInv.advance (h : ControlInv cfg s) {a : Cr} {b : Cfgr} {l : Acr} {m : Word} {p : Bool} {c : BitVec 4}
    (running : stage s ≤ 11) (accepted : committed s = true) (taken : p = false) (next : 1 ≤ c.toNat ∧ c.toNat ≤ 11)
    (count : m = 0#32 ∨ m = s.cnt ∧ c.toNat ∉ [1, 2, 5, 9]) :
    ControlInv cfg (goto c { s with cr := a, cfgr := b, acr := l, cnt := m, status.startPend := p }) := by
  have not_done : s.status.state ≠ Code.done := fun hs => by simp [stage, hs] at running
  have not_failed : s.status.state ≠ Code.failed := fun hs => by simp [stage, hs] at running
  have next_not_done : c ≠ Code.done := by rintro rfl; simp at next
  have next_not_failed : c ≠ Code.failed := by rintro rfl; simp at next
  have zeroed (hc : c.toNat ∈ [1, 2, 5, 9]) : m = 0#32 := count.resolve_right fun kept => kept.2 hc
  have polls {k N : Nat} (hk : k ∈ [1, 2, 5, 9]) (hN : 1 ≤ N) (here : c.toNat = k) : m.toNat < N := by
    rw [zeroed (here ▸ hk)]
    exact hN
  exact {
    no_reserved := next.2.trans (by decide)
    pend_idle := fun pending => by simp [taken] at pending
    plan_wf := fun _ => h.plan_wf accepted
    cnt_bound := by
      obtain rfl | ⟨rfl, -⟩ := count
      · exact lt_max_of_lt_left cfg.nOsc_range.1
      · exact h.cnt_bound
    cnt_reset := fun early => zeroed (by simp [le_antisymm (stage_goto .. ▸ early) next.1])
    osc_polls := polls (by decide) cfg.nOsc_range.1
    pll_polls := polls (by decide) cfg.nPll_range.1
    sw_polls := polls (by decide) cfg.nSw_range.1
    osc_count := fun err => absurd err (h.err_ne_errCode not_failed _)
    pll_count := fun err => absurd err (h.err_ne_errCode not_failed _)
    sw_count := fun err => absurd err (h.err_ne_errCode not_failed _)
    valid_iff_done := by simp [h.fcValid_of_not_done not_done, next_not_done]
    err_iff_failed := by simp [h.err_of_not_failed not_failed, next_not_failed]
    cur_before := fun _ => h.cur_before not_done
    cur_after := fun hc => absurd hc next_not_done
    record_before := fun _ => h.record_before not_done
    record_after := fun hc => absurd hc next_not_done }

/-- `EMIT` creates the record and ends in `DONE` (rule R150). -/
theorem ControlInv.emit (h : ControlInv cfg s) (here : s.status.state = Code.emit) :
    ControlInv cfg
      (goto Code.done
        { s with fc := s.plan.f, status := emittedFlags s.plan s.status, curSysclk := s.plan.f.sysclk }) := by
  have not_failed : s.status.state ≠ Code.failed := by simp [here]
  have accepted : committed s = true := by simp [committed, here]
  exact {
    no_reserved := by simp
    pend_idle := fun pending => by simp [h.startPend_of_not_idle (by simp [here])] at pending
    plan_wf := fun _ => h.plan_wf accepted
    cnt_bound := h.cnt_bound
    cnt_reset := fun early => by simp at early
    osc_polls := fun there => by simp at there
    pll_polls := fun there => by simp at there
    sw_polls := fun there => by simp at there
    osc_count := fun err => absurd err (h.err_ne_errCode not_failed _)
    pll_count := fun err => absurd err (h.err_ne_errCode not_failed _)
    sw_count := fun err => absurd err (h.err_ne_errCode not_failed _)
    valid_iff_done := by simp
    err_iff_failed := by simp [h.err_of_not_failed not_failed]
    cur_before := absurd rfl
    cur_after := fun _ => rfl
    record_before := absurd rfl
    record_after := fun _ => ⟨rfl, rfl, rfl, rfl⟩ }

/-- In a wait fewer polls than its bound have failed (rules R31, R112, R115, R134). -/
theorem ControlInv.polls (h : ControlInv cfg s) {e : TimeoutError} (here : s.status.state = waitCode e) :
    s.cnt.toNat < pollBound cfg e := by
  cases e with
  | oscillatorStartup => exact h.osc_polls (by simp [stage, here, waitCode])
  | pllLock => exact h.pll_polls (by simp [stage, here, waitCode])
  | clockSwitch => exact h.sw_polls (by simp [stage, here, waitCode])

theorem pollBound_le_max (cfg : Config.Params) (e : TimeoutError) :
    pollBound cfg e ≤ max cfg.nOsc (max cfg.nPll cfg.nSw) := by
  cases e <;> simp [pollBound]

theorem pollBound_lt (cfg : Config.Params) (e : TimeoutError) : pollBound cfg e < 2 ^ 32 := by
  cases e
  exacts [cfg.nOsc_range.2, cfg.nPll_range.2, cfg.nSw_range.2]

/-- A wait is past `HSE_EN` and before the end. -/
theorem running_of_wait {e : TimeoutError} (here : s.status.state = waitCode e) :
    2 ≤ stage s ∧ s.status.state ≠ Code.idle ∧ s.status.state ≠ Code.done ∧ s.status.state ≠ Code.failed := by
  rw [stage, here]
  cases e <;> decide

/-- At a wait, a poll that is counted stays below the bound (rule R31). -/
theorem ControlInv.count (h : ControlInv cfg s) {e : TimeoutError} (here : s.status.state = waitCode e)
    (below : s.cnt.toNat + 1 < pollBound cfg e) : ControlInv cfg { s with cnt := s.cnt + 1#32 } := by
  have counted := cnt_succ_toNat (pollBound_lt cfg e) below
  have at_wait : stage s = (waitCode e).toNat := congrArg BitVec.toNat here
  obtain ⟨late, -, -, not_failed⟩ := running_of_wait here
  have polls {e' : TimeoutError} (there : stage s = (waitCode e').toNat) : (s.cnt + 1#32).toNat < pollBound cfg e' := by
    obtain rfl := waitCode_injective (BitVec.eq_of_toNat_eq (at_wait.symm.trans there))
    rwa [counted]
  exact { h with
    cnt_bound := (polls at_wait).trans_le (pollBound_le_max cfg e)
    cnt_reset := fun early => absurd (late.trans early) (by decide)
    osc_polls := polls (e' := .oscillatorStartup)
    pll_polls := polls (e' := .pllLock)
    sw_polls := polls (e' := .clockSwitch)
    osc_count := fun err => absurd err (h.err_ne_errCode not_failed _)
    pll_count := fun err => absurd err (h.err_ne_errCode not_failed _)
    sw_count := fun err => absurd err (h.err_ne_errCode not_failed _) }

/-- At the bound, error entry leaves `CNT` one below it (rules R172, R174). -/
theorem ControlInv.raiseError (h : ControlInv cfg s) {e : TimeoutError} (here : s.status.state = waitCode e)
    (last : pollBound cfg e ≤ s.cnt.toNat + 1) : ControlInv cfg (raiseError e s) := by
  have count : s.cnt.toNat + 1 = pollBound cfg e := le_antisymm (h.polls here) last
  obtain ⟨-, not_idle, not_done, -⟩ := running_of_wait here
  have counts {e' : TimeoutError} (err : errCode e = errCode e') : s.cnt.toNat + 1 = pollBound cfg e' := by
    obtain rfl := errCode_injective err
    exact count
  exact {
    no_reserved := le_rfl
    pend_idle := fun pending => absurd (h.pend_idle pending) not_idle
    plan_wf := fun _ => h.plan_wf (by simp [committed, not_idle])
    cnt_bound := h.cnt_bound
    cnt_reset := fun early => by simp at early
    osc_polls := fun there => by simp at there
    pll_polls := fun there => by simp at there
    sw_polls := fun there => by simp at there
    osc_count := counts
    pll_count := counts
    sw_count := counts
    valid_iff_done := by simp [h.fcValid_of_not_done not_done]
    err_iff_failed := by cases e <;> simp [errCode]
    cur_before := fun _ => h.cur_before not_done
    cur_after := fun ended => by simp at ended
    record_before := fun _ => h.record_before not_done
    record_after := fun ended => by simp at ended }

/-- Before a commit the host may write any plan, and start one that is `wf` (rules R100, R101). -/
theorem ControlInv.host (h : ControlInv cfg s) {p : Plan} {b : Bool} {w : Word} {q : List CommitCommand}
    (free : unlocked s = true) (started : b = true → planWf cfg p = true) :
    ControlInv cfg { s with plan := p, status.startPend := b, hostRdata := w, hostProgram := q } := by
  obtain ⟨idle, -⟩ := (unlocked_iff s).mp free
  have not_done : s.status.state ≠ Code.done := by simp [idle]
  exact { h with
    pend_idle := fun _ => idle
    plan_wf := fun accepted => started (by simpa [committed, idle] using accepted)
    cur_after := fun ended => absurd ended not_done
    record_after := fun ended => absurd ended not_done }

/-! ## The two parts put together -/

/-- A commit that has not failed has come to where it stands. -/
theorem RunInv.clock_at (inv : RunInv cfg s) {c : BitVec 4} (here : s.status.state = c) (not_failed : c ≠ Code.failed) :
    ClockInv s c.toNat := by
  subst here
  have clock := inv.clock
  rw [reached_of_not_failed not_failed] at clock
  exact clock

/-- From the state of an accepted commit that has not ended to that of its next step (`ControlInv.advance`). -/
theorem RunInv.advance (inv : RunInv cfg s) {a : Cr} {b : Cfgr} {l : Acr} {m : Word} {p : Bool} {c : BitVec 4}
    (running : stage s ≤ 11) (accepted : committed s = true) (taken : p = false) (next : 1 ≤ c.toNat ∧ c.toNat ≤ 11)
    (count : m = 0#32 ∨ m = s.cnt ∧ c.toNat ∉ [1, 2, 5, 9])
    (clock : ClockInv { s with cr := a, cfgr := b, acr := l } c.toNat) :
    RunInv cfg (goto c { s with cr := a, cfgr := b, acr := l, cnt := m, status.startPend := p }) := by
  refine (inv.control.advance running accepted taken next count).runInv ?_
  rw [reached_of_not_failed (by rintro rfl; simp at next)]
  exact { clock with }

/-- The same past `IDLE`, where no start is pending. -/
theorem RunInv.next (inv : RunInv cfg s) {a : Cr} {b : Cfgr} {l : Acr} {m : Word} {c : BitVec 4}
    (running : 1 ≤ stage s ∧ stage s ≤ 11) (next : 1 ≤ c.toNat ∧ c.toNat ≤ 11)
    (count : m = 0#32 ∨ m = s.cnt ∧ c.toNat ∉ [1, 2, 5, 9])
    (clock : ClockInv { s with cr := a, cfgr := b, acr := l } c.toNat) :
    RunInv cfg (goto c { s with cr := a, cfgr := b, acr := l, cnt := m }) :=
  inv.advance running.2 (committed_of_stage_pos running.1)
    (inv.control.startPend_of_not_idle fun idle => by simp [stage, idle] at running) next count clock

/-- A wait goes on where the flag it polls is set; a poll that is counted, or that raises the error, keeps the invariant. -/
theorem RunInv.poll (inv : RunInv cfg s) {e : TimeoutError} {ready : Bool} {c : BitVec 4} (here : s.status.state = waitCode e)
    (next : ready = true → RunInv cfg (goto c s)) : RunInv cfg (poll ready (pollBound cfg e) c e s) := by
  obtain ⟨hr, he⟩ | ⟨-, last, he⟩ | ⟨-, below, he⟩ := poll_cases ready (pollBound cfg e) c e s <;> rw [he]
  · exact next hr
  · refine (inv.control.raiseError here last).runInv ?_
    rw [reached_of_failed rfl rfl]
    obtain ⟨-, -, -, not_failed⟩ := running_of_wait here
    exact { inv.clock_at here (here ▸ not_failed) with }
  · exact (inv.control.count here below).runInv { inv.clock with }

/-- Before a commit the host's writes and starts keep the invariant, and once one is accepted they change nothing (rules R100,
R101). -/
theorem RunInv.host (inv : RunInv cfg s) {p : Plan} {b : Bool} {w : Word} {q : List CommitCommand}
    (locked : unlocked s = false → p = s.plan ∧ b = s.status.startPend)
    (started : b = true → s.status.startPend = true ∨ planWf cfg p = true) :
    RunInv cfg { s with plan := p, status.startPend := b, hostRdata := w, hostProgram := q } := by
  cases free : unlocked s with
  | false =>
    obtain ⟨rfl, rfl⟩ := locked free
    exact { inv with }
  | true =>
    obtain ⟨idle, unpended⟩ := (unlocked_iff s).mp free
    refine (inv.control.host free fun hb => (started hb).resolve_left (by simp [unpended])).runInv ?_
    rw [reached_of_not_failed (by simp [idle]), stage, idle]
    exact { (inv.clock_at idle (by decide)).with_plan p with }

theorem RunInv.envStep (inv : RunInv cfg s) (e : EnvEvent) : RunInv cfg (envStep e s) := by
  have clock := inv.clock.envStep e
  obtain ⟨a, b, he⟩ := envStep_update e s
  rw [he] at clock ⊢
  exact ControlInv.runInv { inv.control with } clock

theorem runInv_resetBlock (cfg : Config.Params) (s : State) : RunInv cfg (resetBlock cfg s) :=
  { runInv_resetWith cfg with }

end

/-! ## Every step (rule R213) -/

/-- A step of the sequencer. -/
theorem RunInv.seq {s t : State} (inv : RunInv Config.params s) (h : exec (decodeUop s.status.state) s = .next t) :
    RunInv Config.params t := by
  have wired (left : s.status.state ≠ Code.idle) := planWf_fields (inv.plan_wf (by simp [committed, left]))
  rcases state_cases s.status.state with hs | hs | hs | hs | hs | hs | hs | hs | hs | hs | hs | hs | hs | hs | hs | hs <;>
    rw [hs] at h
  · -- `IDLE`
    cases hp : s.status.startPend with
    | false =>
      obtain rfl := Host.Outcome.next.inj ((exec_idle_of_unpended hp).symm.trans h)
      exact inv
    | true =>
      obtain rfl := Host.Outcome.next.inj ((exec_idle_of_pending hp).symm.trans h)
      exact inv.advance (by simp [stage, hs]) (by simp [committed, hp]) rfl (by split_ifs <;> decide)
        (.inl (inv.cnt_reset (by simp [stage, hs]))) (inv.clock_at hs (by decide)).idle
  · -- `HSE_EN`
    obtain rfl := Host.Outcome.next.inj h
    exact inv.next (by simp [stage, hs]) (by decide) (.inl rfl) (inv.clock_at hs (by decide)).hseEn
  · -- `HSE_WAIT`
    obtain rfl := Host.Outcome.next.inj h
    refine inv.poll (e := .oscillatorStartup) hs fun ready => ?_
    exact inv.next (by simp [stage, hs]) (by split_ifs <;> decide) (.inr ⟨rfl, by split_ifs <;> decide⟩)
      ((inv.clock_at hs (by decide)).hseWait ready)
  · -- `PLL_CFG`
    obtain ⟨-, rfl⟩ := exec_pllCfg_eq_next h
    obtain ⟨-, plldiv, -⟩ := wired (by simp [hs])
    exact inv.next (by simp [stage, hs]) (by decide) (.inr ⟨rfl, by decide⟩) ((inv.clock_at hs (by decide)).pllCfg plldiv)
  · -- `PLL_EN`
    obtain rfl := Host.Outcome.next.inj h
    exact inv.next (by simp [stage, hs]) (by decide) (.inl rfl) (inv.clock_at hs (by decide)).pllEn
  · -- `PLL_WAIT`
    obtain rfl := Host.Outcome.next.inj h
    refine inv.poll (e := .pllLock) hs fun ready => ?_
    exact inv.next (by simp [stage, hs]) (by decide) (.inr ⟨rfl, by decide⟩) ((inv.clock_at hs (by decide)).pllWait ready)
  · -- `FLASH_WS`
    obtain rfl := Host.Outcome.next.inj h
    exact inv.next (by simp [stage, hs]) (by split_ifs <;> decide) (.inr ⟨rfl, by split_ifs <;> decide⟩)
      (inv.clock_at hs (by decide)).flashWs
  · -- `PRESC_PRE`
    obtain rfl := Host.Outcome.next.inj h
    obtain ⟨-, -, usbpre⟩ := wired (by simp [hs])
    exact inv.next (by simp [stage, hs]) (by decide) (.inr ⟨rfl, by decide⟩) ((inv.clock_at hs (by decide)).prescPre usbpre)
  · -- `SW_SET`
    obtain rfl := Host.Outcome.next.inj h
    exact inv.next (by simp [stage, hs]) (by decide) (.inl rfl) (inv.clock_at hs (by decide)).swSet
  · -- `SW_WAIT`
    obtain rfl := Host.Outcome.next.inj h
    refine inv.poll (e := .clockSwitch) hs fun ready => ?_
    exact inv.next (by simp [stage, hs]) (by split_ifs <;> decide) (.inr ⟨rfl, by split_ifs <;> decide⟩)
      ((inv.clock_at hs (by decide)).swWait (beq_iff_eq.mp ready))
  · -- `PRESC_POST`
    obtain rfl := Host.Outcome.next.inj h
    obtain ⟨-, -, usbpre⟩ := wired (by simp [hs])
    exact inv.next (by simp [stage, hs]) (by decide) (.inr ⟨rfl, by decide⟩) ((inv.clock_at hs (by decide)).prescPost usbpre)
  · -- `EMIT`
    obtain rfl := Host.Outcome.next.inj h
    exact (inv.control.emit hs).runInv { (inv.clock_at hs (by decide)).emit with }
  · -- `DONE`
    obtain rfl := Host.Outcome.next.inj h
    exact inv
  · -- `FAILED`
    obtain rfl := Host.Outcome.next.inj h
    exact inv
  · -- `RSVD14`
    exact absurd inv.no_reserved (by simp [stage, hs])
  · -- `RSVD15`
    exact absurd inv.no_reserved (by simp [stage, hs])

/-- A host command. -/
theorem RunInv.host_exec {i : Instr} {s t : State} (inv : RunInv Config.params s) (hf : formatOf i ≠ .uop)
    (h : exec i s = .next t) : RunInv Config.params t := by
  obtain ⟨p, b, w, q, rfl, locked, started⟩ := host_exec_cases hf h
  exact inv.host locked started

/-- A move of any agent. -/
theorem RunInv.move {m : Move} {s t : State} (inv : RunInv Config.params s) (h : applyMove m s = .next t) :
    RunInv Config.params t := by
  obtain ⟨-, h⟩ | ⟨tr, i, -, hd, h⟩ | ⟨p, -, h⟩ | ⟨-, rfl⟩ | ⟨e, -, rfl⟩ | ⟨-, -, rfl⟩ := applyMove_cases h
  · exact inv.seq h
  · exact inv.host_exec (by simp [decodeHost_format hd]) h
  · exact inv.host_exec (by simp [formatOf]) h
  · obtain ⟨p, b, he, locked, started⟩ := hostNext_cases Config.params s
    rw [he]
    exact inv.host (w := s.hostRdata) locked started
  · exact inv.envStep e
  · exact runInv_resetBlock _ s

/-- Settles O48: drawing the move changes nothing the invariant speaks of, and every move keeps it. -/
theorem everyStepKeepsTheRunInvariant : Obligations.EveryStepKeepsTheRunInvariant := by
  intro s t inv h
  obtain ⟨ms, n, drawn⟩ := draw_state s
  rw [step, drawn] at h
  have undrawn : RunInv Config.params { s with schedule := ms, draws := n } := { inv with }
  exact undrawn.move h

end Sys2Proof.Machine
end

section
/-! PROOFS of the family 70_reset_and_hazards, third part: reset (rules R200, R201), the launch premise `wf` (rule R205), and that
every run is safe (rules R211, R212). -/

namespace Sys2Proof.Machine

/-! ## Reset (rules R200, R201) -/

/-- Settles O42: `resetBlock` takes every register from the reset state, whatever the state. -/
theorem resetRestoresEveryRegister : Obligations.ResetRestoresEveryRegister := fun _ =>
  ⟨rfl, rfl, rfl, rfl, rfl, rfl, rfl, rfl, rfl⟩

/-- Committing, in the words of rule R181. -/
theorem committing_iff (s : State) :
    committing s = true
      ↔ s.status.startPend = true ∨ (s.status.state ≠ 0#4 ∧ s.status.state ≠ 12#4 ∧ s.status.state ≠ 13#4) := by
  rw [committing, Bool.or_eq_true, busy_eq_true]

/-- Settles O43: the two sides of `committing`. -/
theorem resetIsRefusedDuringACommit : Obligations.ResetIsRefusedDuringACommit := by
  intro s
  simp only [applyMove, committing_iff]

/-! ## A valid plan is `wf` (rules R14, R88, R205) -/

section
variable {cfg : Config.Params} {p : Plan}

/-- An exact quotient of a positive frequency is positive (rule R13). -/
theorem pos_of_checkedDiv {f d r : Nat} (hd : 0 < d) (hf : 0 < f) (h : checkedDiv f d = .ok r) : 0 < r := by
  rw [← (checkedDiv_eq_ok hd).mp h] at hf
  exact Nat.pos_of_mul_pos_right hf

/-- The PLL output of a plan is a frequency (rule R14, clause 2). -/
theorem pos_of_planPllFreq {r : Nat} (h : planPllFreq cfg p = .ok r) : 0 < r := by
  have root := rootFreq_pos cfg p
  have div := plldiv_pos p.plldiv
  have mul := pllmul_pos p.pllmul
  have output : (0 : ℚ) < r := by
    rw [← pll_eq_of_planPllFreq h]
    positivity
  exact_mod_cast output

theorem ne_zero_of_toNat_pos {w : Word} (h : 0 < w.toNat) : w ≠ 0#32 := by
  rintro rfl
  simp at h

theorem ValidPlan.pll_pos (valid : ValidPlan cfg p) (selected : p.pllSelected = true) : 0 < p.f.pll.toNat :=
  pos_of_planPllFreq (valid.pll selected).1

theorem ValidPlan.sysclk_pos (valid : ValidPlan cfg p) : 0 < p.f.sysclk.toNat := by
  cases selected : p.pllSelected with
  | true =>
    obtain ⟨-, -, -, same⟩ := valid.pll selected
    exact same ▸ valid.pll_pos selected
  | false => exact (valid.direct selected).1 ▸ rootFreq_pos cfg p

theorem ValidPlan.ahb_pos (valid : ValidPlan cfg p) : 0 < p.f.ahb.toNat :=
  pos_of_checkedDiv (hdiv_pos _) valid.sysclk_pos valid.ahb.1

theorem ValidPlan.apb1_pos (valid : ValidPlan cfg p) : 0 < p.f.apb1.toNat :=
  pos_of_checkedDiv (pdiv_pos _) valid.ahb_pos valid.apb1.1

theorem ValidPlan.apb2_pos (valid : ValidPlan cfg p) : 0 < p.f.apb2.toNat :=
  pos_of_checkedDiv (pdiv_pos _) valid.ahb_pos valid.apb2.1

theorem ValidPlan.usb_pos (valid : ValidPlan cfg p) (usb_on : p.usbEn = true) : 0 < p.f.usb.toNat := by
  obtain ⟨-, -, usb⟩ := valid.usb_on usb_on
  rw [usb]
  decide

/-- The wait states of a valid plan are a tier of the table, whose ceiling covers its SYSCLK (rule R14, clause 7). -/
theorem ValidPlan.ceiling (valid : ValidPlan cfg p) :
    ∃ c, cfg.wsCeil[p.ws.toNat]? = some c ∧ p.f.sysclk.toNat ≤ c := by
  obtain ⟨inside, covered, -⟩ := List.findIdx?_eq_some_iff_getElem.mp valid.ws
  exact ⟨_, List.getElem?_eq_getElem inside, of_decide_eq_true covered⟩

/-- Settles O46, clause by clause of rule R88: the encoding gives the first, rule R14 the frequencies, the wait states and the USB
clock. -/
theorem aValidPlanIsWellFormed : Obligations.AValidPlanIsWellFormed := by
  intro cfg p valid encoded
  simp only [correctlyEncoded, Plan.reservedZero, Bool.and_eq_true, Bool.or_eq_true, Bool.not_eq_true', beq_iff_eq,
    bne_iff_ne] at encoded
  obtain ⟨⟨⟨reserved, src⟩, usbpre⟩, plldiv⟩ := encoded
  obtain ⟨c, tier, -⟩ := valid.ceiling
  obtain ⟨inside, -⟩ := List.getElem?_eq_some_iff.mp tier
  refine (planWf_iff cfg p).mpr ⟨reserved, src, inside, ?usb_fields, plldiv, ne_zero_of_toNat_pos valid.sysclk_pos,
    ne_zero_of_toNat_pos valid.ahb_pos, ne_zero_of_toNat_pos valid.apb1_pos, ne_zero_of_toNat_pos valid.apb2_pos, ?pll, ?usb⟩
  case usb_fields =>
    cases has : cfg.hasUsbpre with
    | true => exact .inl rfl
    | false =>
      have usb_off : p.usbEn = false := Bool.eq_false_iff.mpr fun usb_on => by simpa [has] using (valid.usb_on usb_on).1
      exact .inr ⟨usbpre.resolve_left (by simp [has]), usb_off⟩
  case pll =>
    by_cases selected : p.pllSelected = true
    · exact .inr (ne_zero_of_toNat_pos (valid.pll_pos selected))
    · exact .inl (mt (pllSelected_iff p).mpr selected)
  case usb =>
    cases usb_on : p.usbEn with
    | true => exact .inr (ne_zero_of_toNat_pos (valid.usb_pos usb_on))
    | false => exact .inl usb_on

end

/-! ## Every run is safe (rules R211, R212) -/

/-- The reset frequency is within the ceiling of every tier: the table rises, and rule R8 puts it within the first. -/
theorem fInt_le_of_tier {cfg : Config.Params} {i c : Nat} (tier : cfg.wsCeil[i]? = some c) : cfg.fInt ≤ c := by
  have first := cfg.fInt_le_wsCeil
  have rising := cfg.wsCeil_increasing
  cases table : cfg.wsCeil with
  | nil => simp [table] at tier
  | cons c₀ cs =>
    rw [table] at tier first rising
    cases i with
    | zero => exact first.trans_eq (Option.some.inj tier)
    | succ i => exact first.trans ((List.pairwise_cons.mp rising).1 c (List.mem_of_getElem? tier)).le

section
variable {cfg : Config.Params} {s : State}

/-- In a run the wait states programmed are a tier of the table: the first, or the plan's, which `wf` has checked (rule R88). -/
theorem RunInv.tier (inv : RunInv cfg s) : ∃ c, cfg.wsCeil[s.acr.latency.toNat]? = some c := by
  suffices inside : s.acr.latency.toNat < cfg.wsCeil.length from ⟨_, List.getElem?_eq_getElem inside⟩
  by_cases early : beforeFlash s
  · rw [inv.latency_before early]
    exact cfg.wsCeil_length.1
  · have started : 1 ≤ stage s := by
      by_contra h
      exact early (.inl (by omega))
    obtain ⟨-, -, ws, -⟩ := (planWf_iff cfg s.plan).mp (inv.plan_wf (committed_of_stage_pos started))
    rw [inv.latency_after early]
    exact ws

/-- A prescaler does not raise a frequency (rule R35). -/
theorem div_ratio_le {f : ℚ} {d : Nat} (hf : 0 ≤ f) (hd : 0 < d) : f / d ≤ f :=
  div_le_self hf (by exact_mod_cast hd)

/-- At or below the reset frequency every state is safe, whatever the wait states and the prescalers (rule R8). -/
theorem safe_of_sysclk_le_fInt {f : Nat} (tier : ∃ c, cfg.wsCeil[s.acr.latency.toNat]? = some c)
    (hsys : sysclk cfg s = f) (slow : f ≤ cfg.fInt) : Safe cfg s := by
  obtain ⟨c, tier⟩ := tier
  obtain ⟨maxSysclk, maxAhb, maxApb1, maxApb2⟩ := cfg.fInt_le_max
  have below {k : Nat} (h : cfg.fInt ≤ k) : sysclk cfg s ≤ k := by
    rw [hsys]
    exact Nat.cast_le.mpr (slow.trans h)
  have sysclk_nonneg : 0 ≤ sysclk cfg s := hsys ▸ Nat.cast_nonneg f
  have ahb_nonneg : 0 ≤ ahb cfg s := div_nonneg sysclk_nonneg (Nat.cast_nonneg _)
  have ahb_le : ahb cfg s ≤ sysclk cfg s := div_ratio_le sysclk_nonneg (hdiv_pos _)
  have apb1_le : apb1 cfg s ≤ sysclk cfg s := (div_ratio_le ahb_nonneg (pdiv_pos _)).trans ahb_le
  have apb2_le : apb2 cfg s ≤ sysclk cfg s := (div_ratio_le ahb_nonneg (pdiv_pos _)).trans ahb_le
  exact ⟨⟨c, tier, below (fInt_le_of_tier tier)⟩, below maxSysclk, ahb_le.trans (below maxAhb), apb1_le.trans (below maxApb1),
    apb2_le.trans (below maxApb2)⟩

/-- With a valid plan's source active, and its wait states and prescalers in place, every clock is the plan's, within its limit
(rule R14). -/
theorem safe_of_plan_in_place (valid : ValidPlan cfg s.plan) (hsys : sysclk cfg s = (s.plan.f.sysclk.toNat : ℚ))
    (latency : s.acr.latency = s.plan.ws) (prescalers : PrescalersPlan s) : Safe cfg s := by
  obtain ⟨hpre, ppre1, ppre2, -⟩ := prescalers
  obtain ⟨ahb_div, -, ahb_max⟩ := valid.ahb
  obtain ⟨apb1_div, -, apb1_max⟩ := valid.apb1
  obtain ⟨apb2_div, -, apb2_max⟩ := valid.apb2
  obtain ⟨c, tier, covered⟩ := valid.ceiling
  have hahb : ahb cfg s = (s.plan.f.ahb.toNat : ℚ) := by
    rw [ahb, hsys, hpre, div_eq_of_checkedDiv (hdiv_pos _) ahb_div]
  have hapb1 : apb1 cfg s = (s.plan.f.apb1.toNat : ℚ) := by
    rw [apb1, hahb, ppre1, div_eq_of_checkedDiv (pdiv_pos _) apb1_div]
  have hapb2 : apb2 cfg s = (s.plan.f.apb2.toNat : ℚ) := by
    rw [apb2, hahb, ppre2, div_eq_of_checkedDiv (pdiv_pos _) apb2_div]
  rw [Safe, hsys, hahb, hapb1, hapb2, latency]
  exact ⟨⟨c, tier, Nat.cast_le.mpr covered⟩, Nat.cast_le.mpr valid.sysclk_le, Nat.cast_le.mpr ahb_max,
    Nat.cast_le.mpr apb1_max, Nat.cast_le.mpr apb2_max⟩

/-- In switch-first order, until the prescalers are written, the plan's SYSCLK is below the reset frequency (rules R32, R85). -/
theorem RunInv.plan_sysclk_lt_fInt (inv : RunInv cfg s) (after : afterSwSet s) (unwritten : ¬ prescalersWritten s) :
    s.plan.f.sysclk.toNat < cfg.fInt := by
  have not_done : s.status.state ≠ Code.done := fun done => unwritten (.inr (.inl (stage_of_done done)))
  have not_raising : ¬ s.plan.f.sysclk.toNat ≥ s.curSysclk.toNat := fun raising =>
    unwritten (inv.prescalersWritten_of_raising after ((raiseFirst_iff s).mpr raising))
  rw [inv.cur_before not_done, BitVec.toNat_ofNat, Nat.mod_eq_of_lt cfg.fInt_range.2] at not_raising
  exact Nat.lt_of_not_le not_raising

/-- With another source active the clock is the plan's (rules R211, R213.5, R213.8). -/
theorem RunInv.sysclk_of_active (inv : RunInv cfg s) (valid : ValidPlan cfg s.plan) (active : s.cfgr.sws ≠ 0b00#2)
    (accepted : committed s = true) : sysclk cfg s = (s.plan.f.sysclk.toNat : ℚ) := by
  obtain ⟨late, src⟩ := inv.clock.source_of_active active
  exact sysclk_eq_of_source (inv.plan_wf accepted) valid src (inv.clock.params_plan (by omega))

theorem stage_pos_of_afterSwSet (h : afterSwSet s) : 1 ≤ stage s := by
  rcases h with ⟨from9, -⟩ | ⟨failed, -⟩ <;> omega

end

/-- Settles O50. The internal oscillator is safe with any fields. Another source is active only after `FLASH_WS`; it is the
plan's, and either the prescalers are the plan's too, or it is slower than the internal oscillator. -/
theorem everyRunStateIsSafe : Obligations.EveryRunStateIsSafe := by
  intro cfg s inv valid_of_committed
  by_cases internal : s.cfgr.sws = 0b00#2
  · have hsys : sysclk cfg s = cfg.fInt := by simp [sysclk, fSrc, internal]
    exact safe_of_sysclk_le_fInt inv.tier hsys le_rfl
  · have after := (inv.switched internal).1
    have accepted := committed_of_stage_pos (stage_pos_of_afterSwSet after)
    have valid := valid_of_committed accepted
    have hsys := inv.sysclk_of_active valid internal accepted
    by_cases written : prescalersWritten s
    · exact safe_of_plan_in_place valid hsys (inv.latency_after (not_beforeFlash_of_afterSwSet after))
        (inv.prescalers_after written)
    · exact safe_of_sysclk_le_fInt inv.tier hsys (inv.plan_sysclk_lt_fInt after written).le

/-- A run keeps the run invariant, by induction on its moves. -/
theorem RunInv.run {ms : List Move} {s t : State} (inv : RunInv Config.params s) (h : runMoves ms s = .next t) :
    RunInv Config.params t := by
  induction ms generalizing s with
  | nil => exact Host.Outcome.next.inj h ▸ inv
  | cons m ms ih =>
    obtain ⟨u, move, rest⟩ := runMoves_cons_eq_next h
    exact ih (inv.move move) rest

/-- Settles O51: the run invariant holds at reset, so it holds of every state reached. -/
theorem everyRunFromResetIsSafe : Obligations.EveryRunFromResetIsSafe := fun _ t run valid =>
  everyRunStateIsSafe Config.params t (runInvariantHoldsAtReset.run run) valid

end Sys2Proof.Machine
end
